-- ==== Sys2Proof/Word.lean ====
section
/-! DEFINITION. The bit-vector types of the block. Numbers are unsigned everywhere (00_scope.md R9). -/

namespace Sys2Proof

/-- A byte: frame data, buffer contents, one cell of memory. -/
abbrev Byte := BitVec 8

/-- The width of the CRC register and of the two halves of `CRC_VAL` (44_integrity_crc.md R240). -/
abbrev Half := BitVec 16

/-- A 32-bit word: one host bus transaction, one command word (20_memory.md R60, R64). -/
abbrev Word := BitVec 32

/-- A 12-bit byte address of the host register space (20_memory.md R60). -/
abbrev BusAddr := BitVec 12

/-- Sixteen bytes as one number, byte 0 most significant, so that the number is `be128` of the bytes
(00_scope.md R10, 10_state.md R35): a key, an IV, a counter, a cipher block, a round key. -/
abbrev Block := BitVec 128

end Sys2Proof
end

