-- ==== Sys2Proof/Config.lean ====
section
/-! DEFINITION. The fixed parameters of the block (00_scope.md R8) and the free values: what the spec leaves as
'any value' (93_implementation_defined.md I1 to I4). A free value has no body, so no proof can rest on what it is. -/

namespace Sys2Proof

/-- `L_MIN` (R8): the smallest length the length validator accepts. -/
abbrev Config.lMin : Nat := 18

/-- `L_LIMIT` (R8): the exclusive upper bound of the length. -/
abbrev Config.lLimit : Nat := 64

/-- `HEADER_BYTES` (R8). -/
abbrev Config.headerBytes : Nat := 16

/-- `TRAILER_BYTES` (R8, 90_conflicts.md C1). -/
abbrev Config.trailerBytes : Nat := 2

/-- `FRAME_BUF_BYTES` (R8). -/
abbrev Config.frameBufBytes : Nat := 64

/-- `PLAIN_BUF_BYTES` (R8). -/
abbrev Config.plainBufBytes : Nat := 48

/-- `BLOCK_BYTES` (R8). -/
abbrev Config.blockBytes : Nat := 16

/-- `PREAMBLE` byte 0 (R8). -/
def Config.preamble0 : Byte := 0x54#8

/-- `PREAMBLE` byte 1 (R8). -/
def Config.preamble1 : Byte := 0x3D#8

/-- `CRC_POLY` (R8). -/
def Config.crcPoly : Half := 0x3D65#16

/-- `CRC_INIT` (R8). -/
def Config.crcInit : Half := 0x0000#16

/-- `CRC_XOROUT` (R8). -/
def Config.crcXorOut : Half := 0xFFFF#16

/-- `CI_COMPACT` (R8). -/
def Config.ciCompact : Byte := 0x79#8

/-- `CI_LONG` (R8). -/
def Config.ciLong : Byte := 0x78#8

/-- First address of the `FRAME_BUF` window (20_memory.md R61). -/
abbrev Config.frameBase : Nat := 0x100

/-- First address of the `PLAIN_BUF` window (20_memory.md R61). -/
abbrev Config.plainBase : Nat := 0x140

/-- FREE VALUE (I1; log 4): what the buffer byte at an address (second argument) holds after the reset with
the given number (first argument; 0 is power-on). Safe: any value is possible. -/
opaque Config.drawnByte : Nat → Nat → Byte

/-- FREE VALUE (I2; log 5): `PRE_BYTE0` after the reset with the given number. Safe. -/
opaque Config.drawnPreByte0 : Nat → Byte

/-- FREE VALUE (I3; log 5): the round keys after the reset with the given number. Safe. -/
opaque Config.drawnRoundKeys : Nat → Vector Block 11

/-- FREE VALUE (I4; log 5): the internal counter `CTR` after the reset with the given number. Safe. -/
opaque Config.drawnCtr : Nat → Block

/-- FREE VALUE (60_exceptions.md R322, 91_not_in_source.md N10; log 23): what the host software makes of a
configuration string that is too long or holds a character that is no hex digit; the first argument is the number
of bytes wanted, and no answer means that it ignores the string. Safe. -/
opaque Config.unstatedHex : Nat → List Char → Option (List Byte)

end Sys2Proof
end

