-- ==== Sys2Proof/Machine/Bytes.lean ====
section
/-! DEFINITION. Byte lanes and byte sequences: the notation of 00_scope.md R10 and the lane order of
20_memory.md R67 (the lowest-numbered byte in the most significant place). -/

namespace Sys2Proof.Machine

/-- Byte `i` (0 to 15) of a 16-byte sequence held as its `be128` number (R10, 10_state.md R35). -/
def blockByte (b : Block) (i : Nat) : Byte := b.extractLsb' (8 * (15 - i)) 8

/-- The 16 bytes of a block, byte 0 first: `bytes_be128` of 42_decryptor.md R197. -/
def blockBytes (b : Block) : List Byte := (List.range 16).map (blockByte b)

/-- `be128` of the sixteen bytes `x 0` to `x 15` (R10). -/
def blockOfBytes (x : Nat → Byte) : Block :=
  x 0 ++ x 1 ++ x 2 ++ x 3 ++ x 4 ++ x 5 ++ x 6 ++ x 7 ++
    x 8 ++ x 9 ++ x 10 ++ x 11 ++ x 12 ++ x 13 ++ x 14 ++ x 15

/-- Word `j` (0 to 3) of a 16-byte register file: bytes `4j` to `4j+3`, the first in bits 31:24
(10_state.md R33, R35). -/
def blockWord (b : Block) (j : Nat) : Word := b.extractLsb' (32 * (3 - j)) 32

/-- The 16 bytes made of four words, word 0 first: `IV0 || IV1 || IV2 || IV3` (R35). -/
def blockOfWords (w0 w1 w2 w3 : Word) : Block := w0 ++ w1 ++ w2 ++ w3

/-- The 16 bytes with word `j` replaced: a host write of one word of KEY or IV (20_memory.md R63). -/
def setBlockWord (b : Block) (j : Nat) (v : Word) : Block :=
  blockOfWords
    (if j = 0 then v else blockWord b 0) (if j = 1 then v else blockWord b 1)
    (if j = 2 then v else blockWord b 2) (if j = 3 then v else blockWord b 3)

/-- Byte `j` (0 to 3) of a word, byte 0 in bits 31:24 (R67). -/
def wordByte (w : Word) (j : Nat) : Byte := w.extractLsb' (8 * (3 - j)) 8

/-- The word whose bytes are `b0` (bits 31:24) to `b3` (bits 7:0) (R67). -/
def wordOfBytes (b0 b1 b2 b3 : Byte) : Word := b0 ++ b1 ++ b2 ++ b3

/-- The four bytes of a word in lane order (R67). -/
def wordBytes (w : Word) : List Byte := [wordByte w 0, wordByte w 1, wordByte w 2, wordByte w 3]

/-- `le32(X, o)` of R10: four bytes little-endian. -/
def le32 (x : Nat → Byte) (o : Nat) : Word := x (o + 3) ++ x (o + 2) ++ x (o + 1) ++ x o

/-- `X[a .. a+n)` of R10, as a list. -/
def slice (x : Nat → Byte) (a n : Nat) : List Byte := (List.range n).map fun i => x (a + i)

end Sys2Proof.Machine
end

