-- ==== Sys2Proof/Machine/Aes.lean ====
section
/-! DEFINITION. The AES-128 forward cipher and key expansion of 43_aes128.md. The AES rules are the spec's own,
marked there as from general knowledge (93_implementation_defined.md G1 to G3; log 13). -/

namespace Sys2Proof.Machine

/-- Multiplication by 0x02 in GF(2^8) (R212). -/
def xtime (b : Byte) : Byte := (b <<< 1) ^^^ (if b.getLsbD 7 then 0x1B#8 else 0x00#8)

/-- Multiplication by 0x03 (R212). -/
def mul3 (b : Byte) : Byte := xtime b ^^^ b

/-- Multiplication in GF(2^8) modulo x^8 + x^4 + x^3 + x + 1 (R212): the sum of the shifted `a` over the bits of `b`. -/
def gfMul (a b : Byte) : Byte :=
  (List.range 8).foldl (fun acc i => acc ^^^ (if b.getLsbD i then Nat.repeat xtime i a else 0x00#8)) 0x00#8

/-- The S-box table of R214, row `hi`, column `lo`. -/
def sboxRows : List (List Nat) :=
  [
   [0x63, 0x7C, 0x77, 0x7B, 0xF2, 0x6B, 0x6F, 0xC5, 0x30, 0x01, 0x67, 0x2B, 0xFE, 0xD7, 0xAB, 0x76],
   [0xCA, 0x82, 0xC9, 0x7D, 0xFA, 0x59, 0x47, 0xF0, 0xAD, 0xD4, 0xA2, 0xAF, 0x9C, 0xA4, 0x72, 0xC0],
   [0xB7, 0xFD, 0x93, 0x26, 0x36, 0x3F, 0xF7, 0xCC, 0x34, 0xA5, 0xE5, 0xF1, 0x71, 0xD8, 0x31, 0x15],
   [0x04, 0xC7, 0x23, 0xC3, 0x18, 0x96, 0x05, 0x9A, 0x07, 0x12, 0x80, 0xE2, 0xEB, 0x27, 0xB2, 0x75],
   [0x09, 0x83, 0x2C, 0x1A, 0x1B, 0x6E, 0x5A, 0xA0, 0x52, 0x3B, 0xD6, 0xB3, 0x29, 0xE3, 0x2F, 0x84],
   [0x53, 0xD1, 0x00, 0xED, 0x20, 0xFC, 0xB1, 0x5B, 0x6A, 0xCB, 0xBE, 0x39, 0x4A, 0x4C, 0x58, 0xCF],
   [0xD0, 0xEF, 0xAA, 0xFB, 0x43, 0x4D, 0x33, 0x85, 0x45, 0xF9, 0x02, 0x7F, 0x50, 0x3C, 0x9F, 0xA8],
   [0x51, 0xA3, 0x40, 0x8F, 0x92, 0x9D, 0x38, 0xF5, 0xBC, 0xB6, 0xDA, 0x21, 0x10, 0xFF, 0xF3, 0xD2],
   [0xCD, 0x0C, 0x13, 0xEC, 0x5F, 0x97, 0x44, 0x17, 0xC4, 0xA7, 0x7E, 0x3D, 0x64, 0x5D, 0x19, 0x73],
   [0x60, 0x81, 0x4F, 0xDC, 0x22, 0x2A, 0x90, 0x88, 0x46, 0xEE, 0xB8, 0x14, 0xDE, 0x5E, 0x0B, 0xDB],
   [0xE0, 0x32, 0x3A, 0x0A, 0x49, 0x06, 0x24, 0x5C, 0xC2, 0xD3, 0xAC, 0x62, 0x91, 0x95, 0xE4, 0x79],
   [0xE7, 0xC8, 0x37, 0x6D, 0x8D, 0xD5, 0x4E, 0xA9, 0x6C, 0x56, 0xF4, 0xEA, 0x65, 0x7A, 0xAE, 0x08],
   [0xBA, 0x78, 0x25, 0x2E, 0x1C, 0xA6, 0xB4, 0xC6, 0xE8, 0xDD, 0x74, 0x1F, 0x4B, 0xBD, 0x8B, 0x8A],
   [0x70, 0x3E, 0xB5, 0x66, 0x48, 0x03, 0xF6, 0x0E, 0x61, 0x35, 0x57, 0xB9, 0x86, 0xC1, 0x1D, 0x9E],
   [0xE1, 0xF8, 0x98, 0x11, 0x69, 0xD9, 0x8E, 0x94, 0x9B, 0x1E, 0x87, 0xE9, 0xCE, 0x55, 0x28, 0xDF],
   [0x8C, 0xA1, 0x89, 0x0D, 0xBF, 0xE6, 0x42, 0x68, 0x41, 0x99, 0x2D, 0x0F, 0xB0, 0x54, 0xBB, 0x16]
  ]

/-- The S-box: `S(0x<hi><lo>)` is at row `hi`, column `lo` (R214). -/
def sbox (x : Byte) : Byte := BitVec.ofNat 8 ((sboxRows.getD (x.toNat / 16) []).getD (x.toNat % 16) 0)

/-- The multiplicative inverse in GF(2^8), with `0^-1 = 0` (R213): `x^254`, as the product of
`x^2, x^4, ..., x^128`. -/
def gfInv (x : Byte) : Byte :=
  ((List.range 7).foldl (fun (p : Byte × Byte) _ => (gfMul p.1 p.1, gfMul p.2 (gfMul p.1 p.1))) (x, 0x01#8)).2

/-- The S-box from its algebraic definition `S(x) = A(x^-1)` (R213). -/
def sboxAlgebraic (x : Byte) : Byte :=
  gfInv x ^^^ (gfInv x).rotateLeft 1 ^^^ (gfInv x).rotateLeft 2 ^^^ (gfInv x).rotateLeft 3 ^^^
    (gfInv x).rotateLeft 4 ^^^ 0x63#8

/-- `SubBytes` (R215). -/
def subBytes (s : Block) : Block := blockOfBytes fun i => sbox (blockByte s i)

/-- Byte `s[r][c]` of the 4 by 4 state: byte `r + 4c` of the block (R211). -/
def stateByte (s : Block) (r c : Nat) : Byte := blockByte s (r + 4 * c)

/-- The state with byte `f r c` at row `r`, column `c` (R211). -/
def stateOf (f : Nat → Nat → Byte) : Block := blockOfBytes fun i => f (i % 4) (i / 4)

/-- `ShiftRows` (R216): row `r` is rotated left by `r` positions. -/
def shiftRows (s : Block) : Block := stateOf fun r c => stateByte s r ((c + r) % 4)

/-- Row `r` of one column of `MixColumns` (R217). -/
def mixColumn (a0 a1 a2 a3 : Byte) (r : Nat) : Byte :=
  if r = 0 then xtime a0 ^^^ mul3 a1 ^^^ a2 ^^^ a3
  else if r = 1 then a0 ^^^ xtime a1 ^^^ mul3 a2 ^^^ a3
  else if r = 2 then a0 ^^^ a1 ^^^ xtime a2 ^^^ mul3 a3
  else mul3 a0 ^^^ a1 ^^^ a2 ^^^ xtime a3

/-- `MixColumns` (R217). -/
def mixColumns (s : Block) : Block :=
  stateOf fun r c => mixColumn (stateByte s 0 c) (stateByte s 1 c) (stateByte s 2 c) (stateByte s 3 c) r

/-- `AddRoundKey(r)` (R218): the round key's bytes are in the state's own order, so it is one xor. -/
def addRoundKey (rk : Vector Block 11) (r : Fin 11) (s : Block) : Block := s ^^^ rk[r]

/-- The first byte of `Rcon[j]`, `j` from 1 to 10 (R219). -/
def rcon (j : Nat) : Byte :=
  BitVec.ofNat 8 ([0x01, 0x02, 0x04, 0x08, 0x10, 0x20, 0x40, 0x80, 0x1B, 0x36].getD (j - 1) 0)

/-- `RotWord` (R220). -/
def rotWord (t : Word) : Word := wordOfBytes (wordByte t 1) (wordByte t 2) (wordByte t 3) (wordByte t 0)

/-- `SubWord` (R220). -/
def subWord (t : Word) : Word :=
  wordOfBytes (sbox (wordByte t 0)) (sbox (wordByte t 1)) (sbox (wordByte t 2)) (sbox (wordByte t 3))

/-- The temporary `t` of word `i`, from `w[i-1]` (R220). -/
def keyTemp (i : Nat) (t : Word) : Word :=
  if i % 4 = 0 then subWord (rotWord t) ^^^ wordOfBytes (rcon (i / 4)) 0#8 0#8 0#8 else t

/-- The words `w[0 .. 4+m)` of R220, NEWEST FIRST: the head is `w[i-1]`, index 3 is `w[i-4]`. -/
def keyWords (k : Block) : Nat → List Word
  | 0 => [blockWord k 3, blockWord k 2, blockWord k 1, blockWord k 0]
  | m + 1 => ((keyWords k m).getD 3 0#32 ^^^ keyTemp (m + 4) ((keyWords k m).getD 0 0#32)) :: keyWords k m

/-- Word `i` (0 to 43) of the key schedule (R220). -/
def keyWord (k : Block) (i : Nat) : Word := (keyWords k 40).getD (43 - i) 0#32

/-- Round key `r`: `w[4r] || w[4r+1] || w[4r+2] || w[4r+3]` (R221). -/
def roundKey (k : Block) (r : Nat) : Block :=
  blockOfWords (keyWord k (4 * r)) (keyWord k (4 * r + 1)) (keyWord k (4 * r + 2)) (keyWord k (4 * r + 3))

/-- `KeyExpansion(K)` as the eleven round keys (R220, R221). -/
def keyExpansion (k : Block) : Vector Block 11 :=
  #v[roundKey k 0, roundKey k 1, roundKey k 2, roundKey k 3, roundKey k 4, roundKey k 5,
    roundKey k 6, roundKey k 7, roundKey k 8, roundKey k 9, roundKey k 10]

/-- A round with all four transformations, rounds 1 to 9 (R222). -/
def aesRound (rk : Vector Block 11) (s : Block) (r : Fin 11) : Block :=
  addRoundKey rk r (mixColumns (shiftRows (subBytes s)))

/-- `AES_Encrypt(in, RK)` (R222, R223): round 10 has no MixColumns. -/
def aesEncrypt (inp : Block) (rk : Vector Block 11) : Block :=
  addRoundKey rk 10
    (shiftRows (subBytes (([1, 2, 3, 4, 5, 6, 7, 8, 9] : List (Fin 11)).foldl (aesRound rk) (addRoundKey rk 0 inp))))

end Sys2Proof.Machine
end

