-- ==== Sys2Proof/Machine/Memory.lean ====
section
/-! DEFINITION. The memory of the block: the byte cells of the two buffer windows `FRAME_BUF` and `PLAIN_BUF`, each
at its address of the host register space (20_memory.md R60, R61). The block has no other memory (R60). -/

namespace Sys2Proof.Machine

/-- Address and byte of every cell, addresses strictly rising (log 7). -/
abbrev Memory := List Host.Cell

/-- What an unlisted address reads as: no byte. Every cell of the two windows is always listed, because each byte
is drawn at reset and then held (93_implementation_defined.md I1); at any other address there is no cell (R65). -/
def Memory.unlisted : Option Byte := none

/-- The byte at an address, `Memory.unlisted` where none is listed. -/
def Memory.byteAt? : Memory → Nat → Option Byte
  | [], _ => Memory.unlisted
  | (b, v) :: m, a => if b = a then some v else Memory.byteAt? m a

/-- The byte at the address of a cell. The block forms no address outside its windows; there the bus returns 0
by its own rule (R65), and so does this read, which keeps it total (log 7). -/
def Memory.byteAt (m : Memory) (a : Nat) : Byte := (Memory.byteAt? m a).getD 0#8

/-- Write one cell, keeping the addresses rising. -/
def Memory.write : Memory → Nat → Byte → Memory
  | [], a, v => [(a, v)]
  | (b, w) :: m, a, v =>
    if b = a then (a, v) :: m
    else if a < b then (a, v) :: (b, w) :: m
    else (b, w) :: Memory.write m a v

/-- Write a byte sequence at consecutive addresses from `a` up (00_scope.md R10). -/
def Memory.writeBytes : Memory → Nat → List Byte → Memory
  | m, _, [] => m
  | m, a, v :: vs => Memory.writeBytes (Memory.write m a v) (a + 1) vs

/-- Every address that has a cell: 0x100 to 0x13F and 0x140 to 0x16F, rising (R61). -/
def bufferAddresses : List Nat := List.range' Config.frameBase (Config.frameBufBytes + Config.plainBufBytes)

/-- The canonical form: exactly the cells of the two windows, in rising order, none twice. Equal memories are
therefore equal lists. -/
def Memory.wf (m : Memory) : Bool := m.map Prod.fst == bufferAddresses

/-- The memory after the reset with number `r`: each byte drawn once (I1, 70_reset_and_hazards.md R330). -/
def Memory.drawn (r : Nat) : Memory := bufferAddresses.map fun a => (a, Config.drawnByte r a)

end Sys2Proof.Machine
end

