-- ==== Sys2Proof/Machine/State.lean ====
section
/-! DEFINITION. The state of the block, of its outputs and of its inputs (10_state.md), as plain data; the reset
state (70_reset_and_hazards.md R330, R331); the reasons a step can stop. -/

namespace Sys2Proof.Machine

/-- `STATUS.PHASE` (10_state.md R22). The value 7 is never taken and is no constructor (I5; log 8). -/
inductive Phase where
  /-- 0: acquisition disabled. -/
  | off
  /-- 1: waiting for the sync indication. -/
  | waitSync
  /-- 2: waiting for preamble byte 0. -/
  | pre0
  /-- 3: waiting for preamble byte 1. -/
  | pre1
  /-- 4: waiting for the length byte. -/
  | len
  /-- 5: reading the frame's bytes. -/
  | body
  /-- 6: a frame pass is pending. -/
  | proc
  deriving DecidableEq, Repr

/-- `RESULT.FRAME_RESULT` (60_exceptions.md R281). Codes 0x0A to 0xFF are never written (I9; log 8). -/
inductive FrameResult where
  /-- 0x00: no frame attempt has ended since reset. -/
  | none
  /-- 0x01: a reading was committed. -/
  | readingOk
  /-- 0x02: the preamble bytes were not 0x54, 0x3D. -/
  | preambleMiss
  /-- 0x03: the length byte is not in 18..63. -/
  | lengthInvalid
  /-- 0x04: the frame's address is not METER_ID. -/
  | addressMiss
  /-- 0x05: no encrypted byte. -/
  | cipherLength
  /-- 0x06: too short for the CRC, the CI or the layout. -/
  | payloadShort
  /-- 0x07: the stored and the computed CRC differ. -/
  | crcMismatch
  /-- 0x08: the CI byte is neither 0x79 nor 0x78. -/
  | unknownCi
  /-- 0x09: STOP while a frame was being read. -/
  | aborted
  deriving DecidableEq, Repr

/-- `RESULT.CMD_RESULT` (60_exceptions.md R282). Codes 0x06 to 0xFF are never written (I9; log 8). -/
inductive CmdResult where
  /-- 0x00: no command since reset. -/
  | none
  /-- 0x01: the command was performed. -/
  | ok
  /-- 0x02: the word is no command. -/
  | illegal
  /-- 0x03: not allowed while `EN = 1`. -/
  | busy
  /-- 0x04: the key or the identity the command needs is not loaded. -/
  | notReady
  /-- 0x05: an operand is out of range for the opcode. -/
  | badOperand
  deriving DecidableEq, Repr

/-- Bits 21:16 of `STATUS` (events) or of `IRQ_EN` (their enables), in the same places (10_state.md R23, R28). -/
structure EventBits where
  /-- Bit 16: `EV_READING`, `IE_READING`. -/
  reading : Bool
  /-- Bit 17: `EV_WARN`, `IE_WARN`. -/
  warn : Bool
  /-- Bit 18: `EV_DROP`, `IE_DROP`. -/
  drop : Bool
  /-- Bit 19: `EV_OVR`, `IE_OVR`. -/
  ovr : Bool
  /-- Bit 20: `EV_CMD_ERR`, `IE_CMD_ERR`. -/
  cmdErr : Bool
  /-- Bit 21: `EV_ACC_ERR`, `IE_ACC_ERR`. -/
  accErr : Bool
  deriving DecidableEq, Repr

/-- No bit set: the reset value of both (10_state.md R23, R28). -/
def EventBits.clear : EventBits := ⟨false, false, false, false, false, false⟩

/-- One entry of `rearm_events`: a re-arm request the block has output (10_state.md R41). -/
inductive RearmEvent where
  | rearm
  deriving DecidableEq, Repr

/-- What the world around the block does next, or a turn of the CORE (00_scope.md R6; log 1). -/
inductive Action where
  /-- The CORE is given its turn: it takes its step if it is enabled (R6, 10_state.md R22). -/
  | core
  /-- The HOST reads the word at an address (20_memory.md R62). -/
  | hostRead (a : BusAddr)
  /-- The HOST writes a word at an address; at CMD this is a command (R63). -/
  | hostWrite (a : BusAddr) (v : Word)
  /-- The RADIO appends a byte to `rxq` (60_exceptions.md R314). -/
  | radioByte (b : Byte)
  /-- The RADIO sets the level of `sync_n` (R314). -/
  | radioSync (level : Bool)
  /-- The RADIO flushes `rxq` (R313, R314). -/
  | radioFlush
  /-- The reset input (70_reset_and_hazards.md R330, R332). -/
  | resetInput
  deriving DecidableEq, Repr

/-- The state. Every field but the last three is one the spec names; reset values: `State.reset`. -/
structure State where
  /-- `STATUS.EN` (R24). -/
  en : Bool
  /-- `STATUS.KEY_VALID` (R25). -/
  keyValid : Bool
  /-- `STATUS.ID_VALID` (R26). -/
  idValid : Bool
  /-- `STATUS.RES_VALID` (R27). -/
  resValid : Bool
  /-- `STATUS.PHASE` (R22). -/
  phase : Phase
  /-- The event bits of `STATUS` (R23). -/
  events : EventBits
  /-- `IRQ_EN` (R28). -/
  irqEn : EventBits
  /-- `RESULT.FRAME_RESULT` (R29). -/
  frameResult : FrameResult
  /-- `RESULT.CMD_RESULT` (R29). -/
  cmdResult : CmdResult
  /-- `METER_ID` (R30). -/
  meterId : Word
  /-- `FRAME_LEN.LEN` (R31). -/
  frameLen : Byte
  /-- `CRC_VAL.CALC_CRC` (R32). -/
  calcCrc : Half
  /-- `CRC_VAL.READ_CRC` (R32). -/
  readCrc : Half
  /-- `KS[0..16)`, the key staging (R33). -/
  ks : Block
  /-- `K[0..16)`, the active key (R34). -/
  k : Block
  /-- `RK[0..11)`, the round keys (R34). -/
  rk : Vector Block 11
  /-- `IVR[0..16)`, the registers IV0 to IV3 (R35). -/
  ivr : Block
  /-- `TOTAL_RAW` (R36). -/
  totalRaw : Word
  /-- `MONTH_RAW` (R36). -/
  monthRaw : Word
  /-- `TEMPS.FLOW_TEMP` (R37). -/
  flowTemp : Byte
  /-- `TEMPS.AMBIENT_TEMP` (R37). -/
  ambientTemp : Byte
  /-- `TEMPS.READING_CI` (R37). -/
  readingCi : Byte
  /-- `FRAMES_RX` (R38). -/
  framesRx : Word
  /-- `CRC_ERRS` (R38). -/
  crcErrs : Word
  /-- The cells of `FRAME_BUF` and `PLAIN_BUF` (R39, R40). -/
  mem : Memory
  /-- `PRE_BYTE0` (R41). -/
  preByte0 : Byte
  /-- `BODY_CNT`, 0 to 63 (R41; log 9). -/
  bodyCnt : BitVec 6
  /-- `CTR`, the working counter (R41). -/
  ctr : Block
  /-- `rearm_events`, oldest first (R41). -/
  rearmEvents : List RearmEvent
  /-- `sync_n`, the RADIO's: true is level high, no frame pending (R42). -/
  syncN : Bool
  /-- `rxq`, the RADIO's: the received bytes not yet taken, oldest first (R42). -/
  rxq : List Byte
  /-- The model's own: the words the HOST's reads have returned, oldest first (log 11). -/
  busReads : List Word
  /-- The model's own: how many resets since power-on; it picks the drawn values (log 4, 5). -/
  draws : Nat
  /-- The model's own: what happens next, in order (log 1). -/
  agenda : List Action
  deriving DecidableEq, Repr

/-- The block never faults (60_exceptions.md R280; 93_implementation_defined.md, 'No behaviour of the block is a
fault'), so there is no fault reason: nothing raises one (log 12). -/
inductive Fault where
  deriving DecidableEq, Repr

/-- Why a step is refused. No meaning and no operation of this model refuses (log 12). -/
inductive Refusal where
  /-- Raised only by an arm of `exec` whose instruction has no meaning yet; there is none. Safe. -/
  | notModelled (mnemonic : String)
  deriving DecidableEq, Repr

/-- The machine right after power-on reset (70_reset_and_hazards.md R330, R331). What R330 leaves unspecified is a
free value. `rxq`, `sync_n` and the model's own fields have no reset value in the spec (log 6). -/
def State.reset : State where
  en := false
  keyValid := false
  idValid := false
  resValid := false
  phase := .off
  events := EventBits.clear
  irqEn := EventBits.clear
  frameResult := .none
  cmdResult := .none
  meterId := 0#32
  frameLen := 0#8
  calcCrc := 0#16
  readCrc := 0#16
  ks := 0#128
  k := 0#128
  rk := Config.drawnRoundKeys 0
  ivr := 0#128
  totalRaw := 0#32
  monthRaw := 0#32
  flowTemp := 0#8
  ambientTemp := 0#8
  readingCi := 0#8
  framesRx := 0#32
  crcErrs := 0#32
  mem := Memory.drawn 0
  preByte0 := Config.drawnPreByte0 0
  bodyCnt := 0#6
  ctr := Config.drawnCtr 0
  rearmEvents := []
  syncN := true
  rxq := []
  busReads := []
  draws := 0
  agenda := []

end Sys2Proof.Machine
end

