-- ==== Sys2Proof/Machine/Flags.lean ====
section
/-! DEFINITION. The register words of STATUS, IRQ_EN, RESULT, the event bits and the interrupt output:
10_state.md R22, R23, R28, R29, R43; 60_exceptions.md R281 to R286. -/

namespace Sys2Proof.Machine

/-- The three-bit value of `STATUS.PHASE` (10_state.md R22). -/
def Phase.code : Phase → BitVec 3
  | .off => 0#3
  | .waitSync => 1#3
  | .pre0 => 2#3
  | .pre1 => 3#3
  | .len => 4#3
  | .body => 5#3
  | .proc => 6#3

/-- The code of a frame result (60_exceptions.md R281). -/
def FrameResult.code : FrameResult → Byte
  | .none => 0x00#8
  | .readingOk => 0x01#8
  | .preambleMiss => 0x02#8
  | .lengthInvalid => 0x03#8
  | .addressMiss => 0x04#8
  | .cipherLength => 0x05#8
  | .payloadShort => 0x06#8
  | .crcMismatch => 0x07#8
  | .unknownCi => 0x08#8
  | .aborted => 0x09#8

/-- The code of a command result (60_exceptions.md R282). -/
def CmdResult.code : CmdResult → Byte
  | .none => 0x00#8
  | .ok => 0x01#8
  | .illegal => 0x02#8
  | .busy => 0x03#8
  | .notReady => 0x04#8
  | .badOperand => 0x05#8

/-- Bits 21:16, bit 21 on the left (10_state.md R23). -/
def EventBits.toBits (e : EventBits) : BitVec 6 :=
  BitVec.ofBool e.accErr ++ BitVec.ofBool e.cmdErr ++ BitVec.ofBool e.ovr ++
    BitVec.ofBool e.drop ++ BitVec.ofBool e.warn ++ BitVec.ofBool e.reading

/-- Bits 21:16 of a word: an IRQ_EN write, `v & 0x003F0000` (20_memory.md R63). -/
def EventBits.ofWord (v : Word) : EventBits where
  reading := v.getLsbD 16
  warn := v.getLsbD 17
  drop := v.getLsbD 18
  ovr := v.getLsbD 19
  cmdErr := v.getLsbD 20
  accErr := v.getLsbD 21

/-- W1C (20_memory.md R63): each event bit whose bit of `v` is 1 becomes 0, every other one stays. -/
def EventBits.w1c (e : EventBits) (v : Word) : EventBits where
  reading := e.reading && !v.getLsbD 16
  warn := e.warn && !v.getLsbD 17
  drop := e.drop && !v.getLsbD 18
  ovr := e.ovr && !v.getLsbD 19
  cmdErr := e.cmdErr && !v.getLsbD 20
  accErr := e.accErr && !v.getLsbD 21

/-- What a frame result does to the event bits (60_exceptions.md R283, R284). -/
def frameEvents : FrameResult → EventBits → EventBits
  | .readingOk, e => { e with reading := true }
  | .preambleMiss, e => { e with drop := true }
  | .addressMiss, e => { e with drop := true }
  | .lengthInvalid, e => { e with warn := true }
  | .cipherLength, e => { e with warn := true }
  | .payloadShort, e => { e with warn := true }
  | .crcMismatch, e => { e with warn := true }
  | .unknownCi, e => { e with warn := true }
  | .aborted, e => e
  | .none, e => e

/-- The word read at STATUS (10_state.md R23). -/
def statusWord (s : State) : Word :=
  0#10 ++ s.events.toBits ++ 0#9 ++ s.phase.code ++ BitVec.ofBool s.resValid ++
    BitVec.ofBool s.idValid ++ BitVec.ofBool s.keyValid ++ BitVec.ofBool s.en

/-- The word read at IRQ_EN (10_state.md R28). -/
def irqEnWord (s : State) : Word := 0#10 ++ s.irqEn.toBits ++ 0#16

/-- The word read at RESULT (10_state.md R29). -/
def resultWord (s : State) : Word := 0#16 ++ s.cmdResult.code ++ s.frameResult.code

/-- The output `irq` (10_state.md R43, 60_exceptions.md R285): a level, computed and not stored. -/
def irq (s : State) : Bool :=
  (s.events.reading && s.irqEn.reading) || (s.events.warn && s.irqEn.warn) || (s.events.drop && s.irqEn.drop) ||
    (s.events.ovr && s.irqEn.ovr) || (s.events.cmdErr && s.irqEn.cmdErr) || (s.events.accErr && s.irqEn.accErr)

end Sys2Proof.Machine
end

