-- ==== Sys2Proof/Syntax.lean ====
section
/-! DEFINITION. The instructions: the ten host commands of 30_encoding.md R93, one constructor per row of
spec/opcode_table.json. `a` and `n` are the operands `A` and `N` of R90 and R91, exact unsigned integers. -/

namespace Sys2Proof

/-- A host command (40_host_commands.md R120 to R131). -/
inductive Instr where
  /-- R122: no effect but the command result. -/
  | nop
  /-- R123: make the staged key the SessionKey and expand it. -/
  | keyLoad
  /-- R124: enable frame acquisition and arm the receiver. -/
  | start
  /-- R125: disable frame acquisition. -/
  | stop
  /-- R126: run a frame pass on the frame in `FRAME_BUF`. -/
  | process
  /-- R127: build the IV from the header in `FRAME_BUF`. -/
  | deriveIv
  /-- R128: xor the CTR keystream into `PLAIN_BUF[a .. a+n)`. -/
  | ctr (a n : Nat)
  /-- R129: the CRC16 of `PLAIN_BUF[a .. a+n)`. -/
  | crc (a n : Nat)
  /-- R130: encrypt `PLAIN_BUF[a .. a+16)` in place. -/
  | aesBlock (a : Nat)
  /-- R131: return the block to its reset state. -/
  | softReset
  deriving DecidableEq, Repr

end Sys2Proof
end

