-- ==== Sys2Proof/Machine/Operands.lean ====
section
/-! DEFINITION. What a command or a pass reads its operands from (bytes of the two buffers, bytes of the identity),
and the check of a command before it is performed (40_host_commands.md R121). -/

namespace Sys2Proof.Machine

/-- `FRAME_BUF[k]` (10_state.md R39). -/
def frameByte (s : State) (k : Nat) : Byte := Memory.byteAt s.mem (Config.frameBase + k)

/-- `PLAIN_BUF[k]` (10_state.md R40). -/
def plainByte (s : State) (k : Nat) : Byte := Memory.byteAt s.mem (Config.plainBase + k)

/-- `FRAME_BUF[a .. a+n)`. -/
def frameSlice (s : State) (a n : Nat) : List Byte := slice (frameByte s) a n

/-- `PLAIN_BUF[a .. a+n)`. -/
def plainSlice (s : State) (a n : Nat) : List Byte := slice (plainByte s) a n

/-- `ID[j] = METER_ID[31-8j : 24-8j]` (10_state.md R30). -/
def idByte (s : State) (j : Nat) : Byte := wordByte s.meterId j

/-- The commands allowed while `EN = 1` (R121). -/
def allowedWhileEnabled : Instr → Bool
  | .nop => true
  | .stop => true
  | .softReset => true
  | .keyLoad => false
  | .start => false
  | .process => false
  | .deriveIv => false
  | .ctr _ _ => false
  | .crc _ _ => false
  | .aesBlock _ => false

/-- The commands that need the key (R121). -/
def needsKey : Instr → Bool
  | .start => true
  | .process => true
  | .ctr _ _ => true
  | .aesBlock _ => true
  | .nop => false
  | .keyLoad => false
  | .stop => false
  | .deriveIv => false
  | .crc _ _ => false
  | .softReset => false

/-- The commands that need the identity (R121). -/
def needsIdentity : Instr → Bool
  | .start => true
  | .process => true
  | .nop => false
  | .keyLoad => false
  | .stop => false
  | .deriveIv => false
  | .ctr _ _ => false
  | .crc _ _ => false
  | .aesBlock _ => false
  | .softReset => false

/-- The operand ranges (R121), in exact arithmetic (30_encoding.md R91). -/
def operandsInRange : Instr → Bool
  | .ctr a n => decide (1 ≤ n ∧ a + n ≤ Config.plainBufBytes)
  | .crc a n => decide (a + n ≤ Config.plainBufBytes)
  | .aesBlock a => decide (a + Config.blockBytes ≤ Config.plainBufBytes)
  | .nop => true
  | .keyLoad => true
  | .start => true
  | .stop => true
  | .process => true
  | .deriveIv => true
  | .softReset => true

/-- `CheckCommand` of R121 for a word that is a command: the first result that applies. ILLEGAL comes before it,
where the word is decoded (`writeCommand`). -/
def checkCommand (i : Instr) (s : State) : CmdResult :=
  if s.en && !allowedWhileEnabled i then .busy
  else if needsKey i && !s.keyValid then .notReady
  else if needsIdentity i && !s.idValid then .notReady
  else if !operandsInRange i then .badOperand
  else .ok

end Sys2Proof.Machine
end

