-- ==== Sys2Proof/Machine/Ops.lean ====
section
/-! DEFINITION. The named operations over registers, events and buffers; what stands in for exception entry and
return (60_exceptions.md R290, R291): recording a result, and the acknowledgement of an event; the reset. -/

namespace Sys2Proof.Machine

/-- `RESULT.CMD_RESULT <- r`. -/
def setCmdResult (r : CmdResult) (s : State) : State := { s with cmdResult := r }

/-- `STATUS.PHASE <- p`. -/
def setPhase (p : Phase) (s : State) : State := { s with phase := p }

/-- `BODY_CNT <- c`. -/
def setBodyCnt (c : BitVec 6) (s : State) : State := { s with bodyCnt := c }

/-- `STATUS.EV_CMD_ERR <- 1` (40_host_commands.md R120). -/
def setCmdErr (s : State) : State := { s with events := { s.events with cmdErr := true } }

/-- `STATUS.EV_ACC_ERR <- 1`: an ignored host access (20_memory.md R64 to R66). -/
def setAccErr (s : State) : State := { s with events := { s.events with accErr := true } }

/-- The host's acknowledgement of events, a W1C write of STATUS (60_exceptions.md R291, 20_memory.md R63). -/
def ackEvents (v : Word) (s : State) : State := { s with events := EventBits.w1c s.events v }

/-- `raise <Result>` for a frame attempt or pass (00_scope.md R11, 60_exceptions.md R280, R283, R290): the code and
its event, and nothing else. -/
def raiseFrame (r : FrameResult) (s : State) : State :=
  { s with frameResult := r, events := frameEvents r s.events }

/-- `emit Rearm` (00_scope.md R11). -/
def emitRearm (s : State) : State := { s with rearmEvents := s.rearmEvents ++ [.rearm] }

/-- `pop()` once the head is known: `rxq` without its head (00_scope.md R11, 20_memory.md R79). -/
def dropRx (s : State) : State := { s with rxq := s.rxq.tail }

/-- `FRAME_BUF[k ..] <- bytes`. -/
def writeFrame (k : Nat) (bytes : List Byte) (s : State) : State :=
  { s with mem := Memory.writeBytes s.mem (Config.frameBase + k) bytes }

/-- `PLAIN_BUF[k ..] <- bytes`. -/
def writePlain (k : Nat) (bytes : List Byte) (s : State) : State :=
  { s with mem := Memory.writeBytes s.mem (Config.plainBase + k) bytes }

/-- `IVR <- iv` (10_state.md R35). -/
def setIvr (iv : Block) (s : State) : State := { s with ivr := iv }

/-- `CTR <- c`, the internal working counter (10_state.md R41, 42_decryptor.md R197). -/
def setCtr (c : Block) (s : State) : State := { s with ctr := c }

/-- `CRC_VAL.CALC_CRC <- c` (10_state.md R32). -/
def setCalcCrc (c : Half) (s : State) : State := { s with calcCrc := c }

/-- `CRC_VAL.READ_CRC <- c` (10_state.md R32). -/
def setReadCrc (c : Half) (s : State) : State := { s with readCrc := c }

/-- A command whose check fails changes nothing but `CMD_RESULT` and `EV_CMD_ERR` (40_host_commands.md R120). -/
def failCommand (r : CmdResult) (s : State) : State := setCmdErr (setCmdResult r s)

/-- `ExecuteCommand` of R120 for a decoded command: its check, then its pseudocode and CMD_RESULT = OK. -/
def performCommand (i : Instr) (pseudocode : State → State) (s : State) : Host.Outcome State Fault Refusal :=
  if checkCommand i s = .ok then .next (setCmdResult .ok (pseudocode s))
  else .next (failCommand (checkCommand i s) s)

/-- `ResetState()` (70_reset_and_hazards.md R330): every register at its reset value, the unspecified ones drawn
anew; `rearm_events`, `rxq`, `sync_n` and what is outside the block stay. -/
def resetBlock (s : State) : State :=
  { State.reset with
    rk := Config.drawnRoundKeys (s.draws + 1)
    mem := Memory.drawn (s.draws + 1)
    preByte0 := Config.drawnPreByte0 (s.draws + 1)
    ctr := Config.drawnCtr (s.draws + 1)
    draws := s.draws + 1
    rearmEvents := s.rearmEvents
    syncN := s.syncN
    rxq := s.rxq
    busReads := s.busReads
    agenda := s.agenda }

end Sys2Proof.Machine
end

