-- ==== Sys2Proof/Machine/Decryptor.lean ====
section
/-! DEFINITION. The decryptor: the IV and the AES-128 counter mode (42_decryptor.md R190 to R201). -/

namespace Sys2Proof.Machine

/-- `DeriveIV(F)` (R194): `F[1..9)`, `F[10]`, `F[12..16)`, three zero bytes. -/
def deriveIv (f : Nat → Byte) : Block :=
  blockOfBytes fun i =>
    if i < 8 then f (i + 1) else if i = 8 then f 10 else if i < 13 then f (i + 3) else 0x00#8

/-- `Inc(c) = (c + 1) mod 2^128` (R196). -/
def incCounter (c : Block) : Block := c + 1#128

/-- One block of data with the keystream byte at the same position; a partial block uses only the first bytes of
the keystream (R197, R198). -/
def xorKeystream (d : List Byte) (ks : Block) : List Byte := List.zipWith (· ^^^ ·) d (blockBytes ks)

/-- The loop of R197 over the given number of blocks: the output and the counter after the last block. -/
def ctrBlocks (rk : Vector Block 11) : Nat → List Byte → Block → List Byte × Block
  | 0, _, c => ([], c)
  | m + 1, d, c =>
    (xorKeystream (d.take 16) (aesEncrypt c rk) ++ (ctrBlocks rk m (d.drop 16) (incCounter c)).1,
      (ctrBlocks rk m (d.drop 16) (incCounter c)).2)

/-- `CTR_XOR(D, IV, RK)` (R197): `ceil(n/16)` blocks from the counter `be128(IV)` (R195). -/
def ctrXor (d : List Byte) (iv : Block) (rk : Vector Block 11) : List Byte × Block :=
  ctrBlocks rk ((d.length + 15) / 16) d iv

/-- `cl = L - 18` (R191): the length less the 16-byte header and the 2-byte trailer. -/
def cipherLength (l : Nat) : Nat := l - (Config.headerBytes + Config.trailerBytes)

/-- `cl == 0 or cl > 48` (R192). -/
def cipherLengthBad (cl : Nat) : Bool := decide (cl = 0 ∨ cl > Config.plainBufBytes)

/-- IV-construction stage (R194): `IVR <- DeriveIV(FRAME_BUF)`. -/
def stageIv (s : State) : State := setIvr (deriveIv (frameByte s)) s

/-- CTR-decryption stage (R199): `PLAIN_BUF[0..cl)` from the ciphertext `FRAME_BUF[16..16+cl)` (R193). -/
def stageCtr (cl : Nat) (s : State) : State :=
  setCtr (ctrXor (frameSlice s Config.headerBytes cl) s.ivr s.rk).2
    (writePlain 0 (ctrXor (frameSlice s Config.headerBytes cl) s.ivr s.rk).1 s)

end Sys2Proof.Machine
end

