-- ==== Sys2Proof/Machine/FramePass.lean ====
section
/-! DEFINITION. The frame pass (45_parser.md R270): address match (41_acquisition.md R171, R172), decryption
(42_decryptor.md), integrity check (44_integrity_crc.md R245 to R249), parser (45_parser.md R260 to R266). -/

namespace Sys2Proof.Machine

/-- `LenOk(L) = (18 <= L) and (L < 64)` (41_acquisition.md R161). -/
def lenOk (l : Nat) : Bool := decide (Config.lMin ≤ l ∧ l < Config.lLimit)

/-- `AddrMatch(F, METER_ID)`: `F[3+k] = ID[3-k]` for `k` in 0..3 (41_acquisition.md R171). -/
def addrMatch (s : State) : Bool := (List.range 4).all fun k => frameByte s (3 + k) == idByte s (3 - k)

/-- The two frame layouts (45_parser.md R262). -/
inductive Layout where
  | compact
  | long
  deriving DecidableEq, Repr

/-- A layout's own field-offset table (R262, R263). -/
structure FieldOffsets where
  total : Nat
  month : Nat
  flow : Nat
  ambient : Nat
  minLength : Nat
  deriving DecidableEq, Repr

/-- The layout table (R263); offsets count from `P[0]`. -/
def layoutOffsets : Layout → FieldOffsets
  | .compact => ⟨9, 13, 17, 18, 19⟩
  | .long => ⟨10, 16, 23, 29, 30⟩

/-- CI dispatch (R261): no layout for any byte but 0x79 and 0x78. -/
def layoutOfCi (ci : Byte) : Option Layout :=
  if ci = Config.ciCompact then some .compact else if ci = Config.ciLong then some .long else none

/-- The CI byte `P[2]` (30_encoding.md R100). -/
def ciByte (s : State) : Byte := plainByte s 2

/-- The registers of a committed reading (45_parser.md R264, R266). -/
def setReading (o : FieldOffsets) (s : State) : State :=
  { s with
    totalRaw := le32 (plainByte s) o.total
    monthRaw := le32 (plainByte s) o.month
    flowTemp := plainByte s o.flow
    ambientTemp := plainByte s o.ambient
    readingCi := ciByte s
    resValid := true }

/-- `if STATUS.EV_READING == 1: STATUS.EV_OVR <- 1` (R266). -/
def noteOverrun (s : State) : State :=
  { s with events := { s.events with ovr := s.events.ovr || s.events.reading } }

/-- Reading commit, pass stage 6d (R266). -/
def commitReading (o : FieldOffsets) (s : State) : State := raiseFrame .readingOk (setReading o (noteOverrun s))

/-- The parser with a layout chosen, pass stages 6c and 6d (R265, R266). -/
def passLayout (cl : Nat) (o : FieldOffsets) (s : State) : State :=
  if cl < o.minLength then raiseFrame .payloadShort s else commitReading o s

/-- The parser, pass stage 6 (R260, R261). -/
def passParse (cl : Nat) (s : State) : State :=
  if cl < 3 then raiseFrame .payloadShort s
  else match layoutOfCi (ciByte s) with
    | none => raiseFrame .unknownCi s
    | some lay => passLayout cl (layoutOffsets lay) s

/-- The stored CRC `P[1] << 8 | P[0]` (44_integrity_crc.md R246). -/
def storedCrc (s : State) : Half := plainByte s 1 ++ plainByte s 0

/-- Integrity stage 5b (R247): both halves of `CRC_VAL`. -/
def stageCrc (cl : Nat) (s : State) : State :=
  setCalcCrc (crc16 (plainSlice s 2 (cl - 2))) (setReadCrc (storedCrc s) s)

/-- `CRC_ERRS <- (CRC_ERRS + 1) mod 2^32` (R248). -/
def countCrcError (s : State) : State := { s with crcErrs := s.crcErrs + 1#32 }

/-- Integrity stage 5c, then the parser (R248, R249). -/
def passCompare (cl : Nat) (s : State) : State :=
  if s.readCrc = s.calcCrc then passParse cl s else raiseFrame .crcMismatch (countCrcError s)

/-- Integrity stage 5, then the parser (R245, R247). -/
def passIntegrity (cl : Nat) (s : State) : State :=
  if cl < 2 then raiseFrame .payloadShort s else passCompare cl (stageCrc cl s)

/-- Pass stages 2 to 6 (R192, R194, R199): a bad cipher length ends the pass before the IV is built (R190). -/
def passDecrypt (cl : Nat) (s : State) : State :=
  if cipherLengthBad cl then raiseFrame .cipherLength s else passIntegrity cl (stageCtr cl (stageIv s))

/-- `FramePass(L)` (45_parser.md R270). -/
def framePass (l : Nat) (s : State) : State :=
  if addrMatch s then passDecrypt (cipherLength l) s else raiseFrame .addressMiss s

end Sys2Proof.Machine
end

