-- ==== Sys2Proof/Machine/Acquisition.lean ====
section
/-! DEFINITION. The CORE's steps (41_acquisition.md R160 to R170; 45_parser.md R270): sync detection, preamble,
length byte, body, and the pass. -/

namespace Sys2Proof.Machine

/-- A CORE step that takes the head of `rxq`; with `rxq` empty the CORE holds (R162 to R165, R169). The byte
has left the queue when `f` runs (`pop()`, 00_scope.md R11). -/
def takeByte (f : Byte → State → State) (s : State) : State :=
  match s.rxq with
  | [] => s
  | b :: _ => f b (dropRx s)

/-- Sync detection (R160): a level, active low; while it is high the CORE holds. -/
def syncStep (s : State) : State := if s.syncN then s else setPhase .pre0 s

/-- Preamble byte 0 (R162): no comparison yet. -/
def preambleByte0 (b : Byte) (s : State) : State := setPhase .pre1 { s with preByte0 := b }

/-- Preamble byte 1 and the comparison of both bytes (R163). -/
def preambleByte1 (b : Byte) (s : State) : State :=
  if s.preByte0 = Config.preamble0 ∧ b = Config.preamble1 then setPhase .len s
  else setPhase .waitSync (raiseFrame .preambleMiss (emitRearm s))

/-- `FRAME_LEN.LEN <- L` (10_state.md R31). -/
def setFrameLen (l : Byte) (s : State) : State := { s with frameLen := l }

/-- The length byte (R164): always stored, then validated. -/
def lengthByte (l : Byte) (s : State) : State :=
  if lenOk l.toNat then setPhase .body (setBodyCnt 0#6 (setFrameLen l s))
  else setPhase .waitSync (raiseFrame .lengthInvalid (emitRearm (setFrameLen l s)))

/-- `FRAMES_RX <- (FRAMES_RX + 1) mod 2^32` (R166). -/
def countFrame (s : State) : State := { s with framesRx := s.framesRx + 1#32 }

/-- `EndOfBody()` (R166): the Rearm comes before the pass. -/
def endOfBody (s : State) : State := setPhase .proc (countFrame (emitRearm s))

/-- `FRAME_BUF[BODY_CNT] <- b; BODY_CNT <- BODY_CNT + 1` (R165). -/
def storeBodyByte (b : Byte) (s : State) : State :=
  setBodyCnt (s.bodyCnt + 1#6) (writeFrame s.bodyCnt.toNat [b] s)

/-- A body byte (R165). -/
def bodyByte (b : Byte) (s : State) : State :=
  if (storeBodyByte b s).bodyCnt.toNat = s.frameLen.toNat then endOfBody (storeBodyByte b s) else storeBodyByte b s

/-- The CORE step of PHASE = PROC (45_parser.md R270): the whole pass, then WAIT_SYNC whatever its result. -/
def passStep (s : State) : State := setPhase .waitSync (framePass s.frameLen.toNat s)

/-- When the CORE has an enabled step (10_state.md R22). -/
def coreEnabled (s : State) : Bool :=
  match s.phase with
  | .off => false
  | .waitSync => !s.syncN
  | .pre0 => !s.rxq.isEmpty
  | .pre1 => !s.rxq.isEmpty
  | .len => !s.rxq.isEmpty
  | .body => !s.rxq.isEmpty
  | .proc => true

/-- One turn of the CORE: its step, or, where it holds, no change (00_scope.md R12; log 2). -/
def coreStep (s : State) : State :=
  match s.phase with
  | .off => s
  | .waitSync => syncStep s
  | .pre0 => takeByte preambleByte0 s
  | .pre1 => takeByte preambleByte1 s
  | .len => takeByte lengthByte s
  | .body => takeByte bodyByte s
  | .proc => passStep s

end Sys2Proof.Machine
end

