-- ==== Sys2Proof/WellFormed.lean ====
section
/-! DEFINITION. Which instructions the encoding can hold: operands of six bits each (30_encoding.md R90, R91). -/

namespace Sys2Proof

/-- An operand fits its six-bit field: 0 to 63 (R90). -/
abbrev Instr.OperandFits (x : Nat) : Prop := x < 64

/-- Every operand of the instruction fits its field (R90). Whether it is in range for the opcode is no question
of form: the command itself answers BAD_OPERAND (40_host_commands.md R121). -/
def Instr.wellFormed : Instr → Bool
  | .ctr a n => decide (OperandFits a) && decide (OperandFits n)
  | .crc a n => decide (OperandFits a) && decide (OperandFits n)
  | .aesBlock a => decide (OperandFits a)
  | .nop => true
  | .keyLoad => true
  | .start => true
  | .stop => true
  | .process => true
  | .deriveIv => true
  | .softReset => true

/-- `Instr.wellFormed` as a proposition. -/
abbrev Instr.WellFormed (i : Instr) : Prop := i.wellFormed = true

end Sys2Proof
end

