-- ==== Sys2Proof/Decode.lean ====
section
/-! DEFINITION. The command decoder of 30_encoding.md R90 to R95, total on every 32-bit word, and the encoder
written from the same table (R90, R93, R96). -/

namespace Sys2Proof

/-- Why a word is illegal (R94). The block answers every one of them with CMD_RESULT = ILLEGAL. -/
inductive DecodeError where
  /-- The opcode field holds none of the ten opcodes. -/
  | reservedOpcode
  /-- A listed opcode with a reserved bit or an unused operand field that is not zero (R92). -/
  | reservedBitsSet
  deriving DecidableEq, Repr

/-- `OPC = cmd[7:0]` (R90). -/
def opcField (w : Word) : BitVec 8 := w.extractLsb' 0 8

/-- `A = cmd[13:8]`, zero-extended (R90, R91). -/
def aField (w : Word) : Nat := (w.extractLsb' 8 6).toNat

/-- `N = cmd[21:16]`, zero-extended (R90, R91). -/
def nField (w : Word) : Nat := (w.extractLsb' 16 6).toNat

/-- A word is a row's command exactly when `(w & mask) == match` (R93). -/
def rowMatches (mask pattern w : Word) : Bool := w &&& mask == pattern

/-- The ten opcodes of R93. -/
def listedOpcodes : List (BitVec 8) :=
  [0x00#8, 0x01#8, 0x02#8, 0x03#8, 0x04#8, 0x05#8, 0x06#8, 0x07#8, 0x08#8, 0x0F#8]

/-- Why a word that matches no row is illegal (R94). -/
def whyIllegal (w : Word) : DecodeError :=
  if listedOpcodes.contains (opcField w) then .reservedBitsSet else .reservedOpcode

/-- `Decode` of R95: the row of R93 that the word matches, with its `A` and `N`, or the reason why it is illegal. -/
def decode (w : Word) : Except DecodeError Instr :=
  if rowMatches 0xFFFFFFFF#32 0x00000000#32 w then .ok .nop
  else if rowMatches 0xFFFFFFFF#32 0x00000001#32 w then .ok .keyLoad
  else if rowMatches 0xFFFFFFFF#32 0x00000002#32 w then .ok .start
  else if rowMatches 0xFFFFFFFF#32 0x00000003#32 w then .ok .stop
  else if rowMatches 0xFFFFFFFF#32 0x00000004#32 w then .ok .process
  else if rowMatches 0xFFFFFFFF#32 0x00000005#32 w then .ok .deriveIv
  else if rowMatches 0xFFC0C0FF#32 0x00000006#32 w then .ok (.ctr (aField w) (nField w))
  else if rowMatches 0xFFC0C0FF#32 0x00000007#32 w then .ok (.crc (aField w) (nField w))
  else if rowMatches 0xFFFFC0FF#32 0x00000008#32 w then .ok (.aesBlock (aField w))
  else if rowMatches 0xFFFFFFFF#32 0x0000000F#32 w then .ok .softReset
  else .error (whyIllegal w)

/-- The opcode of each row of R93. -/
def opcode : Instr → Nat
  | .nop => 0x00
  | .keyLoad => 0x01
  | .start => 0x02
  | .stop => 0x03
  | .process => 0x04
  | .deriveIv => 0x05
  | .ctr _ _ => 0x06
  | .crc _ _ => 0x07
  | .aesBlock _ => 0x08
  | .softReset => 0x0F

/-- The mask of each row of R93. -/
def rowMask : Instr → Word
  | .nop => 0xFFFFFFFF#32
  | .keyLoad => 0xFFFFFFFF#32
  | .start => 0xFFFFFFFF#32
  | .stop => 0xFFFFFFFF#32
  | .process => 0xFFFFFFFF#32
  | .deriveIv => 0xFFFFFFFF#32
  | .ctr _ _ => 0xFFC0C0FF#32
  | .crc _ _ => 0xFFC0C0FF#32
  | .aesBlock _ => 0xFFFFC0FF#32
  | .softReset => 0xFFFFFFFF#32

/-- The operand `A` of an instruction, 0 where it has none (R92: an unused field is zero). -/
def operandA : Instr → Nat
  | .ctr a _ => a
  | .crc a _ => a
  | .aesBlock a => a
  | .nop | .keyLoad | .start | .stop | .process | .deriveIv | .softReset => 0

/-- The operand `N` of an instruction, 0 where it has none (R92). -/
def operandN : Instr → Nat
  | .ctr _ n => n
  | .crc _ n => n
  | .aesBlock _ => 0
  | .nop | .keyLoad | .start | .stop | .process | .deriveIv | .softReset => 0

/-- The command word of an instruction: `(n << 16) | (a << 8) | OPC` (R96). Written as the fields of R90 from
bit 31 down, so that an operand beyond six bits cannot reach another field. -/
def encode (i : Instr) : Word :=
  0#10 ++ BitVec.ofNat 6 (operandN i) ++ 0#2 ++ BitVec.ofNat 6 (operandA i) ++ BitVec.ofNat 8 (opcode i)

/-- The 32-bit command word whose low `nbits` bits are `w`'s and whose other bits are 0. A command is one word,
so bit 0 of the opcode table's numbering is bit 0 of the word (30_encoding.md R90). -/
def tableWord (nbits w : Nat) : Word := BitVec.ofNat 32 (w % 2 ^ nbits)

/-- What the decoder reads from the instruction whose bits are `w` in the opcode table's numbering. -/
def decodeTableWord (nbits w : Nat) : Option Instr :=
  match decode (tableWord nbits w) with
  | .ok i => some i
  | .error _ => none

end Sys2Proof
end

