-- ==== Sys2Proof/Machine/Control.lean ====
section
/-! DEFINITION. The commands that control the block: NOP, START, STOP, SOFT_RESET (40_host_commands.md R122,
R124, R125, R131). -/

namespace Sys2Proof.Machine

/-- NOP (R122). -/
def execNop (s : State) : Host.Outcome State Fault Refusal := performCommand .nop id s

/-- The pseudocode of START (R124). -/
def startCore (s : State) : State := emitRearm (setBodyCnt 0#6 (setPhase .waitSync { s with en := true }))

/-- START (R124). -/
def execStart (s : State) : Host.Outcome State Fault Refusal := performCommand .start startCore s

/-- A frame is being read: PHASE in PRE0, PRE1, LEN, BODY (R125). -/
def midFrame : Phase → Bool
  | .pre0 => true
  | .pre1 => true
  | .len => true
  | .body => true
  | .off => false
  | .waitSync => false
  | .proc => false

/-- The pseudocode of STOP (R125): ABORTED sets no event (60_exceptions.md R283), and no Rearm is emitted. -/
def stopCore (s : State) : State :=
  if s.en then
    setBodyCnt 0#6 (setPhase .off { (if midFrame s.phase then raiseFrame .aborted s else s) with en := false })
  else s

/-- STOP (R125). -/
def execStop (s : State) : Host.Outcome State Fault Refusal := performCommand .stop stopCore s

/-- SOFT_RESET (R131): `ResetState()`, then CMD_RESULT = OK (70_reset_and_hazards.md R332). -/
def execSoftReset (s : State) : Host.Outcome State Fault Refusal := performCommand .softReset resetBlock s

end Sys2Proof.Machine
end

