-- ==== Sys2Proof/Machine/KeyIv.lean ====
section
/-! DEFINITION. The commands that load the key and build the IV: KEY_LOAD, DERIVE_IV (40_host_commands.md R123,
R127). -/

namespace Sys2Proof.Machine

/-- The pseudocode of KEY_LOAD (R123): the staging is kept. -/
def loadKey (s : State) : State := { s with k := s.ks, rk := keyExpansion s.ks, keyValid := true }

/-- KEY_LOAD (R123). -/
def execKeyLoad (s : State) : Host.Outcome State Fault Refusal := performCommand .keyLoad loadKey s

/-- DERIVE_IV (R127): the IV-construction stage alone. -/
def execDeriveIv (s : State) : Host.Outcome State Fault Refusal := performCommand .deriveIv stageIv s

end Sys2Proof.Machine
end

