-- ==== Sys2Proof/Machine/Units.lean ====
section
/-! DEFINITION. The commands that run one unit, or a whole pass, on host data: CTR, CRC, AES_BLOCK, PROCESS
(40_host_commands.md R126, R128 to R130). -/

namespace Sys2Proof.Machine

/-- The pseudocode of CTR (R128): IVR stays, the counter runs in the internal CTR. -/
def ctrInPlace (a n : Nat) (s : State) : State :=
  setCtr (ctrXor (plainSlice s a n) s.ivr s.rk).2 (writePlain a (ctrXor (plainSlice s a n) s.ivr s.rk).1 s)

/-- CTR (R128). -/
def execCtr (a n : Nat) (s : State) : Host.Outcome State Fault Refusal :=
  performCommand (.ctr a n) (ctrInPlace a n) s

/-- The pseudocode of CRC (R129): READ_CRC is not changed. -/
def crcOfPlain (a n : Nat) (s : State) : State := setCalcCrc (crc16 (plainSlice s a n)) s

/-- CRC (R129). -/
def execCrc (a n : Nat) (s : State) : Host.Outcome State Fault Refusal :=
  performCommand (.crc a n) (crcOfPlain a n) s

/-- The pseudocode of AES_BLOCK (R130). -/
def aesInPlace (a : Nat) (s : State) : State :=
  writePlain a (blockBytes (aesEncrypt (blockOfBytes fun i => plainByte s (a + i)) s.rk)) s

/-- AES_BLOCK (R130). -/
def execAesBlock (a : Nat) (s : State) : Host.Outcome State Fault Refusal :=
  performCommand (.aesBlock a) (aesInPlace a) s

/-- The pseudocode of PROCESS (R126): no Rearm, FRAMES_RX unchanged. -/
def processFrame (s : State) : State :=
  if lenOk s.frameLen.toNat then framePass s.frameLen.toNat s else raiseFrame .lengthInvalid s

/-- PROCESS (R126). -/
def execProcess (s : State) : Host.Outcome State Fault Refusal := performCommand .process processFrame s

end Sys2Proof.Machine
end

