-- ==== Sys2Proof/Machine/Dispatch.lean ====
section
/-! DEFINITION. One arm per constructor of Instr: each calls its own meaning (40_host_commands.md R122 to R131). -/

namespace Sys2Proof.Machine

/-- Execute a decoded command (40_host_commands.md R120). -/
def exec (i : Instr) (s : State) : Host.Outcome State Fault Refusal :=
  match i with
  | .nop => Sys2Proof.Machine.execNop s
  | .keyLoad => Sys2Proof.Machine.execKeyLoad s
  | .start => Sys2Proof.Machine.execStart s
  | .stop => Sys2Proof.Machine.execStop s
  | .process => Sys2Proof.Machine.execProcess s
  | .deriveIv => Sys2Proof.Machine.execDeriveIv s
  | .ctr a n => Sys2Proof.Machine.execCtr a n s
  | .crc a n => Sys2Proof.Machine.execCrc a n s
  | .aesBlock a => Sys2Proof.Machine.execAesBlock a s
  | .softReset => Sys2Proof.Machine.execSoftReset s

end Sys2Proof.Machine
end

