-- ==== Sys2Proof/Machine/Bus.lean ====
section
/-! DEFINITION. The host bus: the register map, reads and writes (20_memory.md R60 to R72), and a command
written to CMD (40_host_commands.md R120). -/

namespace Sys2Proof.Machine

/-- The registers and buffer words of the map (R61). -/
inductive Reg where
  | status
  | irqEn
  | cmd
  | result
  | meterId
  | frameLen
  | crcVal
  /-- KEY0 to KEY3. -/
  | key (j : Fin 4)
  /-- IV0 to IV3. -/
  | iv (j : Fin 4)
  | totalRaw
  | monthRaw
  | temps
  | framesRx
  | crcErrs
  /-- The word of `FRAME_BUF` that begins with byte `4j`. -/
  | frameWord (j : Fin 16)
  /-- The word of `PLAIN_BUF` that begins with byte `4j`. -/
  | plainWord (j : Fin 12)
  deriving DecidableEq, Repr

/-- The registers below the buffer windows, one per word address (R61). -/
def lowRegAt (a : Nat) : Option Reg :=
  if a = 0x000 then some .status
  else if a = 0x004 then some .irqEn
  else if a = 0x008 then some .cmd
  else if a = 0x00C then some .result
  else if a = 0x010 then some .meterId
  else if a = 0x014 then some .frameLen
  else if a = 0x018 then some .crcVal
  else if a = 0x020 then some (.key 0)
  else if a = 0x024 then some (.key 1)
  else if a = 0x028 then some (.key 2)
  else if a = 0x02C then some (.key 3)
  else if a = 0x030 then some (.iv 0)
  else if a = 0x034 then some (.iv 1)
  else if a = 0x038 then some (.iv 2)
  else if a = 0x03C then some (.iv 3)
  else if a = 0x040 then some .totalRaw
  else if a = 0x044 then some .monthRaw
  else if a = 0x048 then some .temps
  else if a = 0x04C then some .framesRx
  else if a = 0x050 then some .crcErrs
  else none

/-- The register or buffer word at an aligned address; none where the map has none (R61, R65). -/
def regAt (a : Nat) : Option Reg :=
  if h : Config.frameBase ≤ a ∧ a < Config.frameBase + Config.frameBufBytes then
    some (.frameWord ⟨(a - Config.frameBase) / 4, by
      simp only [Config.frameBase, Config.frameBufBytes] at h ⊢; omega⟩)
  else if h : Config.plainBase ≤ a ∧ a < Config.plainBase + Config.plainBufBytes then
    some (.plainWord ⟨(a - Config.plainBase) / 4, by
      simp only [Config.plainBase, Config.plainBufBytes] at h ⊢; omega⟩)
  else lowRegAt a

/-- The access rights of 10_state.md and 20_memory.md R61, R66. -/
inductive Access where
  /-- W1C on the event bits, read-only elsewhere, never locked. -/
  | w1c
  /-- Readable and writable, never locked. -/
  | rw
  /-- Executes a command; reads 0. -/
  | command
  /-- A write is an access error. -/
  | ro
  /-- Writable only while `EN = 0` (RW* and WO*). -/
  | locked
  deriving DecidableEq, Repr

/-- The access rights of each register (R61, R66). -/
def Reg.access : Reg → Access
  | .status => .w1c
  | .irqEn => .rw
  | .cmd => .command
  | .result => .ro
  | .meterId => .locked
  | .frameLen => .locked
  | .crcVal => .ro
  | .key _ => .locked
  | .iv _ => .locked
  | .totalRaw => .ro
  | .monthRaw => .ro
  | .temps => .ro
  | .framesRx => .ro
  | .crcErrs => .ro
  | .frameWord _ => .locked
  | .plainWord _ => .locked

/-- The word read at `TEMPS` (10_state.md R37). -/
def tempsWord (s : State) : Word := 0#8 ++ s.readingCi ++ s.ambientTemp ++ s.flowTemp

/-- The word read at `CRC_VAL` (10_state.md R32). -/
def crcValWord (s : State) : Word := s.readCrc ++ s.calcCrc

/-- The word of a buffer window whose first byte is `x k` (R62, R67). -/
def windowWord (x : Nat → Byte) (k : Nat) : Word := wordOfBytes (x k) (x (k + 1)) (x (k + 2)) (x (k + 3))

/-- What a read of a mapped register returns (R62). -/
def readReg (r : Reg) (s : State) : Word :=
  match r with
  | .status => statusWord s
  | .irqEn => irqEnWord s
  | .cmd => 0#32
  | .result => resultWord s
  | .meterId => s.meterId
  | .frameLen => 0#24 ++ s.frameLen
  | .crcVal => crcValWord s
  | .key _ => 0#32
  | .iv j => blockWord s.ivr j.val
  | .totalRaw => s.totalRaw
  | .monthRaw => s.monthRaw
  | .temps => tempsWord s
  | .framesRx => s.framesRx
  | .crcErrs => s.crcErrs
  | .frameWord j => windowWord (frameByte s) (4 * j.val)
  | .plainWord j => windowWord (plainByte s) (4 * j.val)

/-- `a[1:0] = 0` (R64). -/
def aligned (a : BusAddr) : Bool := a.toNat % 4 == 0

/-- The register an access reaches: none for a misaligned (R64) or an unmapped (R65) address. -/
def reached (a : BusAddr) : Option Reg := if aligned a then regAt a.toNat else none

/-- `MemRead(a, 4)` (R62): the word returned, and the state with `EV_ACC_ERR` set where the access is ignored. -/
def memRead (a : BusAddr) (s : State) : Word × State :=
  match reached a with
  | none => (0#32, setAccErr s)
  | some r => (readReg r s, s)

/-- An accepted write of a locked register, `EN = 0` (R63). -/
def writeLocked (r : Reg) (v : Word) (s : State) : State :=
  match r with
  | .meterId => { s with meterId := v, idValid := true }
  | .frameLen => { s with frameLen := v.setWidth 8 }
  | .key j => { s with ks := setBlockWord s.ks j.val v }
  | .iv j => setIvr (setBlockWord s.ivr j.val v) s
  | .frameWord j => writeFrame (4 * j.val) (wordBytes v) s
  | .plainWord j => writePlain (4 * j.val) (wordBytes v) s
  | .status => s
  | .irqEn => s
  | .cmd => s
  | .result => s
  | .crcVal => s
  | .totalRaw => s
  | .monthRaw => s
  | .temps => s
  | .framesRx => s
  | .crcErrs => s

/-- `IRQ_EN <- v & 0x003F0000` (R63). -/
def setIrqEn (v : Word) (s : State) : State := { s with irqEn := EventBits.ofWord v }

/-- `ExecuteCommand(w)` (40_host_commands.md R120): an illegal word is answered ILLEGAL (R121, 30_encoding.md R94). -/
def writeCommand (w : Word) (s : State) : Host.Outcome State Fault Refusal :=
  match decode w with
  | .ok i => exec i s
  | .error _ => .next (failCommand .illegal s)

/-- `MemWrite(a, 4, v)` (R63). -/
def memWrite (a : BusAddr) (v : Word) (s : State) : Host.Outcome State Fault Refusal :=
  match reached a with
  | none => .next (setAccErr s)
  | some r =>
    match r.access with
    | .w1c => .next (ackEvents v s)
    | .rw => .next (setIrqEn v s)
    | .command => writeCommand v s
    | .ro => .next (setAccErr s)
    | .locked => if s.en then .next (setAccErr s) else .next (writeLocked r v s)

end Sys2Proof.Machine
end

