-- ==== Sys2Proof/Machine/Agents.lean ====
section
/-! DEFINITION. The agents and their interleaving (00_scope.md R6, R7, R12; 20_memory.md R72, R73): which agent
moves next is data, the head of `State.agenda` (log 1 to 3). -/

namespace Sys2Proof.Machine

/-- An action is a host bus transaction, so it is held while a pass is pending (20_memory.md R72). -/
def Action.isHost : Action → Bool
  | .hostRead _ => true
  | .hostWrite _ _ => true
  | .core => false
  | .radioByte _ => false
  | .radioSync _ => false
  | .radioFlush => false
  | .resetInput => false

/-- A host read: the bus returns the word, which `busReads` records (log 11). -/
def hostRead (a : BusAddr) (s : State) : State :=
  { (memRead a s).2 with busReads := s.busReads ++ [(memRead a s).1] }

/-- The RADIO appends a byte to the receive queue (60_exceptions.md R314). -/
def radioByte (b : Byte) (s : State) : State := { s with rxq := s.rxq ++ [b] }

/-- The RADIO sets the level of `sync_n` (R314). -/
def radioSync (level : Bool) (s : State) : State := { s with syncN := level }

/-- The RADIO discards the bytes not yet taken (R313, R314). -/
def radioFlush (s : State) : State := { s with rxq := [] }

/-- The step an action names, taken in the state whose agenda no longer holds it. -/
def perform (act : Action) (s : State) : Host.Outcome State Fault Refusal :=
  match act with
  | .core => .next (coreStep s)
  | .hostRead a => .next (hostRead a s)
  | .hostWrite a v => memWrite a v s
  | .radioByte b => .next (radioByte b s)
  | .radioSync level => .next (radioSync level s)
  | .radioFlush => .next (radioFlush s)
  | .resetInput => .next (resetBlock s)

/-- The agenda without its head. -/
def dropAction (s : State) : State := { s with agenda := s.agenda.tail }

/-- The HOST is held: a pass is pending (20_memory.md R72). -/
def hostHeld (s : State) : Bool := s.phase == .proc

/-- One step of the whole system. With nothing on the agenda the CORE has its turn (log 2). A held host
transaction stays first on the agenda while the CORE runs the pass (R72, R345; log 3). -/
def systemStep (s : State) : Host.Outcome State Fault Refusal :=
  match s.agenda with
  | [] => .next (coreStep s)
  | act :: _ => if act.isHost && hostHeld s then .next (coreStep s) else perform act (dropAction s)

/-- The address of CMD (20_memory.md R61). -/
def cmdAddress : BusAddr := 0x008#12

/-- The state in which the HOST is about to write a word to CMD (log 10). -/
def withCommandNext (w : Word) (s : State) : State := { s with agenda := .hostWrite cmdAddress w :: s.agenda }

end Sys2Proof.Machine
end

