-- ==== Sys2Proof/Machine/Step.lean ====
section
/-! DEFINITION. The step of the machine, and the state whose next step runs a given command word. -/

namespace Sys2Proof.Machine

/-- One step (00_scope.md R7, R12): `systemStep`. -/
def step (s : State) : Host.Outcome State Fault Refusal := systemStep s

/-- `s` with the command word whose low `nbits` bits are `w` about to be written to CMD by the HOST, which is how
a command reaches the block (40_host_commands.md R120; log 10). -/
def State.withFetchWord (s : State) (nbits w : Nat) : State := withCommandNext (tableWord nbits w) s

end Sys2Proof.Machine
end

