-- ==== Sys2Proof/Safety.lean ====
section
/-! DEFINITION. What counts as a safe state and a safe run, in the terms the statements use. -/

namespace Sys2Proof.Machine

/-- The invariant of the block: what holds in the reset state and is kept by every step of every agent. -/
structure State.Inv (s : State) : Prop where
  /-- Memory has its canonical form. -/
  memory : Memory.wf s.mem = true
  /-- `PHASE = 0` exactly when `EN = 0` (10_state.md R22). -/
  phaseOff : s.phase = .off ↔ s.en = false
  /-- Acquisition runs only with a key and an identity (40_host_commands.md R121, R124). -/
  ready : s.en = true → s.keyValid = true ∧ s.idValid = true
  /-- With KEY_VALID the round keys are those of the active key (10_state.md R34). -/
  expanded : s.keyValid = true → s.rk = keyExpansion s.k
  /-- Without KEY_VALID the active key is its reset value (R25, R34). -/
  unkeyed : s.keyValid = false → s.k = 0#128
  /-- Without ID_VALID METER_ID is its reset value (R26, R30). -/
  unidentified : s.idValid = false → s.meterId = 0#32
  /-- In BODY the length is a valid one and fewer bytes than that are stored (41_acquisition.md R164, R165). -/
  bodyCount : s.phase = .body → lenOk s.frameLen.toNat = true ∧ s.bodyCnt.toNat < s.frameLen.toNat
  /-- In PROC the length is a valid one (R166). -/
  passLength : s.phase = .proc → lenOk s.frameLen.toNat = true
  /-- Without RES_VALID no reading has been committed since reset (10_state.md R27, R36, R37). -/
  noReading : s.resValid = false → s.totalRaw = 0#32 ∧ s.monthRaw = 0#32 ∧ s.flowTemp = 0#8 ∧ s.ambientTemp = 0#8 ∧
    s.readingCi = 0#8 ∧ s.events.reading = false ∧ s.events.ovr = false
  /-- A committed reading is of one of the two layouts (R37). -/
  readingCi : s.resValid = true → s.readingCi = Config.ciCompact ∨ s.readingCi = Config.ciLong
  /-- READING_OK stands only where a reading is committed (60_exceptions.md R281). -/
  readingOk : s.frameResult = .readingOk → s.resValid = true

/-- The five fields of the latest reading (10_state.md R36, R37). -/
def readingOf (s : State) : Word × Word × Byte × Byte × Byte :=
  (s.totalRaw, s.monthRaw, s.flowTemp, s.ambientTemp, s.readingCi)

/-- The action a step takes from the agenda: none where the agenda is empty, or its head is a held host access. -/
def takenAction (s : State) : Option Action :=
  match s.agenda with
  | [] => none
  | act :: _ => if act.isHost && hostHeld s then none else some act

/-- A run of `n` steps, every one of which answers a next state. -/
def runs : Nat → State → State → Prop
  | 0, s, t => s = t
  | n + 1, s, t => ∃ u, step s = .next u ∧ runs n u t

end Sys2Proof.Machine
end

