-- ==== Sys2Proof/Certificates/Slice0/Obligations.lean ====
section
/-! DEFINITION. The statements for the provers, each with the rule of spec/ it formalises, and the few terms of the
spec's own that they use. -/

namespace Sys2Proof.Claims

open Sys2Proof.Machine

/-- A word is the command of an instruction's row: `(w & mask) == match` (30_encoding.md R93). -/
abbrev rowHit (w : Word) (i : Instr) : Prop := w &&& rowMask i = BitVec.ofNat 32 (opcode i)

/-- A step takes SOFT_RESET (0x0000000F at CMD) or the reset input (70_reset_and_hazards.md R332). -/
abbrev takesReset (s : State) : Prop :=
  takenAction s = some (.hostWrite 0x008#12 0x0000000F#32) ∨ takenAction s = some .resetInput

/-- A step writes a command word to CMD. -/
abbrev takesCommand (s : State) (w : Word) : Prop := takenAction s = some (.hostWrite 0x008#12 w)

/-- The CORE has its turn in a step: on the agenda, or because nothing else is taken. -/
abbrev takesCoreTurn (s : State) : Prop := takenAction s = none ∨ takenAction s = some .core

/-- An address of the map of 20_memory.md R61. -/
abbrev mapped (a : Nat) : Prop :=
  a ∈ [0x000, 0x004, 0x008, 0x00C, 0x010, 0x014, 0x018, 0x020, 0x024, 0x028, 0x02C, 0x030, 0x034, 0x038, 0x03C,
    0x040, 0x044, 0x048, 0x04C, 0x050] ∨ (a % 4 = 0 ∧ 0x100 ≤ a ∧ a < 0x170)

/-- The addresses of the registers that are locked while `EN = 1` (R66). -/
abbrev lockable (a : Nat) : Prop :=
  a ∈ [0x010, 0x014, 0x020, 0x024, 0x028, 0x02C, 0x030, 0x034, 0x038, 0x03C] ∨
    (a % 4 = 0 ∧ 0x100 ≤ a ∧ a < 0x170)

/-- `AddrMatch(F, METER_ID)` (41_acquisition.md R171), as the little-endian word it is equivalent to. -/
abbrev addressed (s : State) : Prop :=
  frameByte s 6 ++ frameByte s 5 ++ frameByte s 4 ++ frameByte s 3 = s.meterId

/-- Byte `j` of the plaintext of the frame in FRAME_BUF: `F[16+j]` xor the keystream under the IV of the header
(42_decryptor.md R193, R194, R195, R197). -/
def payloadByte (s : State) (j : Nat) : Byte :=
  frameByte s (16 + j) ^^^
    blockByte (aesEncrypt (deriveIv (frameByte s) + BitVec.ofNat 128 (j / 16)) s.rk) (j % 16)

/-- The stored CRC of that plaintext (44_integrity_crc.md R246). -/
def payloadStoredCrc (s : State) : Half := payloadByte s 1 ++ payloadByte s 0

/-- The CRC computed over `P[2..cl)` (R247). -/
def payloadCrc (s : State) (cl : Nat) : Half := crc16 ((List.range (cl - 2)).map fun j => payloadByte s (2 + j))

end Sys2Proof.Claims

open Sys2Proof Sys2Proof.Machine Sys2Proof.Claims

/-! ### Encoding -/

/-- Decode and encode agree on every well-formed instruction (30_encoding.md R90, R93, R96). -/
def Obligations.DecodeOfEncodeIsTheCommand : Prop :=
  ∀ i : Instr, i.WellFormed → decode (encode i) = .ok i

/-- A word that decodes is the word its instruction encodes to, so no bit is dropped (R90 to R93). -/
def Obligations.EncodeOfDecodeIsTheWord : Prop :=
  ∀ (w : Word) (i : Instr), decode w = .ok i → i.WellFormed ∧ encode i = w

/-- R95: the decoder is total, and the rows' match sets are disjoint because they differ in OPC. -/
def Obligations.DecoderFindsExactlyOneRowOrNone : Prop :=
  (∀ w : Word,
    (∃ i, decode w = .ok i ∧ rowHit w i ∧
      (∀ a n, (i = .ctr a n ∨ i = .crc a n) → a = w.toNat / 2 ^ 8 % 64 ∧ n = w.toNat / 2 ^ 16 % 64) ∧
      (∀ a, i = .aesBlock a → a = w.toNat / 2 ^ 8 % 64)) ∨
    (∃ e, decode w = .error e ∧ ∀ i, ¬ rowHit w i)) ∧
  (∀ (w : Word) (i j : Instr), rowHit w i → rowHit w j → opcode i = opcode j)

/-- A few words written out from the patterns of R93 decode to the instruction they stand for. -/
def Obligations.WrittenOutWordsDecode : Prop :=
  decode 0x00000000#32 = .ok .nop ∧ decode 0x00000001#32 = .ok .keyLoad ∧ decode 0x00000002#32 = .ok .start ∧
    decode 0x00000003#32 = .ok .stop ∧ decode 0x00000004#32 = .ok .process ∧ decode 0x00000005#32 = .ok .deriveIv ∧
    decode 0x00140006#32 = .ok (.ctr 0 20) ∧ decode 0x00092807#32 = .ok (.crc 40 9) ∧
    decode 0x00001008#32 = .ok (.aesBlock 16) ∧ decode 0x0000000F#32 = .ok .softReset

/-- R94: an illegal word executes nothing and ends with ILLEGAL and EV_CMD_ERR; which words are illegal. -/
def Obligations.IllegalWordsExecuteNothing : Prop :=
  (∀ (w : Word) (s : State), (∀ i, ¬ rowHit w i) →
    memWrite 0x008#12 w s = .next { s with cmdResult := .illegal, events := { s.events with cmdErr := true } }) ∧
  (∀ w : Word, ((0x09 ≤ w.toNat % 256 ∧ w.toNat % 256 ≤ 0x0E) ∨ 0x10 ≤ w.toNat % 256) → ∀ i, ¬ rowHit w i) ∧
  (∀ (w : Word) (i : Instr), w.toNat % 256 = opcode i → ¬ rowHit w i → ∀ j, ¬ rowHit w j)

/-! ### The step of the whole system -/

/-- A step runs the decoded command: with a host write of a command word to CMD first on the agenda and no pass
pending, the step is `exec` of the decoded instruction in the state whose agenda no longer holds that write. And
every other step there is, the RADIO's apart: a turn of the CORE is `coreStep` (R6), a host read is MemRead (R62), a
host write is MemWrite (R63), the reset input is ResetState (R330). The agenda, the CORE's turn where it is empty,
and the record of the words read are the model's choice (log 1, 2, 10, 11, 19). -/
def Obligations.StepRunsTheDecodedCommand : Prop :=
  (∀ (s : State) (w : Word) (rest : List Action) (i : Instr),
    s.agenda = .hostWrite 0x008#12 w :: rest → s.phase ≠ .proc → decode w = .ok i →
      step s = exec i { s with agenda := rest }) ∧
  (∀ (s : State) (nbits w : Nat) (i : Instr),
    s.phase ≠ .proc → decodeTableWord nbits w = some i → step (s.withFetchWord nbits w) = exec i s) ∧
  (∀ s : State, s.agenda = [] → step s = .next (coreStep s)) ∧
  (∀ (s : State) (rest : List Action),
    s.agenda = .core :: rest → step s = .next (coreStep { s with agenda := rest })) ∧
  (∀ (s : State) (a : BusAddr) (rest : List Action), s.agenda = .hostRead a :: rest → s.phase ≠ .proc →
    step s = .next { (memRead a { s with agenda := rest }).2 with
      busReads := s.busReads ++ [(memRead a { s with agenda := rest }).1] }) ∧
  (∀ (s : State) (a : BusAddr) (v : Word) (rest : List Action), s.agenda = .hostWrite a v :: rest → s.phase ≠ .proc →
    step s = memWrite a v { s with agenda := rest }) ∧
  (∀ (s : State) (rest : List Action),
    s.agenda = .resetInput :: rest → step s = .next (resetBlock { s with agenda := rest }))

/-- While PHASE = PROC a host access is held, and the CORE's step is the whole pass, atomically (20_memory.md R72,
45_parser.md R270, 70_reset_and_hazards.md R345). That the held access stays first on the agenda and is performed by
the very next step is the model's choice (log 3, on the agenda of log 1). -/
def Obligations.HostIsHeldForExactlyOnePass : Prop :=
  ∀ (s : State) (act : Action) (rest : List Action),
    s.agenda = act :: rest → ((∃ a, act = .hostRead a) ∨ (∃ a v, act = .hostWrite a v)) → s.phase = .proc →
      step s = .next { framePass s.frameLen.toNat s with phase := .waitSync } ∧
      step { framePass s.frameLen.toNat s with phase := .waitSync } =
        perform act { framePass s.frameLen.toNat s with phase := .waitSync, agenda := rest }

/-- The block never traps, halts or enters a failed state (60_exceptions.md R280), so no step and no command faults
(log 12). Where the CORE holds and nothing else acts (00_scope.md R12), that the step answers the same state as its
next one is the model's choice (log 2). -/
def Obligations.EveryStepAnswersANextState : Prop :=
  (∀ s : State, ∃ t, step s = .next t) ∧ (∀ (i : Instr) (s : State), ∃ t, exec i s = .next t)

/-- The invariant holds in the reset state. -/
def Obligations.ResetStateMeetsTheInvariant : Prop := State.reset.Inv

/-- Every step of every agent keeps the invariant: memory keeps its canonical form, PHASE is OFF exactly when EN
is 0, the round keys are those of the key, the body reader stays inside the frame, the reading registers hold a
reading of one of the two layouts or their reset values. -/
def Obligations.EveryStepKeepsTheInvariant : Prop :=
  ∀ s t : State, s.Inv → step s = .next t → t.Inv

/-- R24: only START sets EN; only STOP, SOFT_RESET and reset clear it; no frame outcome clears it. -/
def Obligations.AcquisitionIsSwitchedOnlyByCommands : Prop :=
  ∀ s t : State, step s = .next t →
    (s.en = false → t.en = true → takesCommand s 0x00000002#32) ∧
    (s.en = true → t.en = false → takesCommand s 0x00000003#32 ∨ takesReset s)

/-- The key, its round keys and KEY_VALID change only by KEY_LOAD, SOFT_RESET or reset; the staging only by a write
of KEY0 to KEY3 while EN = 0, or by those resets (10_state.md R25, R33, R34; 42_decryptor.md R201). -/
def Obligations.KeyChangesOnlyByLoadOrReset : Prop :=
  ∀ s t : State, step s = .next t →
    ((t.k ≠ s.k ∨ t.rk ≠ s.rk ∨ t.keyValid ≠ s.keyValid) →
      (takesCommand s 0x00000001#32 ∧ s.en = false) ∨ takesReset s) ∧
    (t.ks ≠ s.ks → (s.en = false ∧ ∃ a v, takenAction s = some (.hostWrite a v) ∧
        a ∈ [0x020#12, 0x024#12, 0x028#12, 0x02C#12]) ∨ takesReset s)

/-- METER_ID and ID_VALID change only by a write of METER_ID while EN = 0, or by SOFT_RESET or reset
(10_state.md R26, R30). -/
def Obligations.IdentityChangesOnlyByWriteOrReset : Prop :=
  ∀ s t : State, step s = .next t → (t.meterId ≠ s.meterId ∨ t.idValid ≠ s.idValid) →
    (s.en = false ∧ ∃ v, takenAction s = some (.hostWrite 0x010#12 v) ∧ t.meterId = v ∧ t.idValid = true) ∨
      takesReset s

/-- An event bit that is 1 becomes 0 only by a host write of 1 to it in STATUS, SOFT_RESET or reset
(60_exceptions.md R286, 10_state.md R23). -/
def Obligations.EventBitsAreClearedOnlyByHostOrReset : Prop :=
  ∀ (s t : State) (b : Nat), step s = .next t → 16 ≤ b → b ≤ 21 →
    (statusWord s).getLsbD b = true → (statusWord t).getLsbD b = false →
      (∃ v, takenAction s = some (.hostWrite 0x000#12 v) ∧ v.getLsbD b = true) ∨ takesReset s

/-- The result registers change only when a pass commits a reading (10_state.md R36, R37), which a turn of the CORE
in PROC or the command PROCESS runs, or by SOFT_RESET or reset. -/
def Obligations.ReadingChangesOnlyByCommit : Prop :=
  ∀ s t : State, step s = .next t →
    readingOf t = readingOf s ∨ takesReset s ∨
      (t.frameResult = .readingOk ∧ t.events.reading = true ∧ t.resValid = true ∧
        ((s.phase = .proc ∧ (takesCoreTurn s)) ∨ takesCommand s 0x00000004#32))

/-- The read protocol of 70_reset_and_hazards.md R342: if EV_READING is 0 at the end of a run in which no step takes a
write that clears it, SOFT_RESET or the reset input, every state of the run holds one and the same reading, and every
read of TOTAL_RAW, MONTH_RAW or TEMPS in the run returns that reading's word. -/
def Obligations.NoReadingIsTorn : Prop :=
  ∀ (n : Nat) (s t : State), runs n s t →
    (∀ (m : Nat) (u : State), m < n → runs m s u → ¬ takesReset u ∧
      ∀ v, takenAction u = some (.hostWrite 0x000#12 v) → v.getLsbD 16 = false) →
    t.events.reading = false →
    (∀ (m : Nat) (u : State), m ≤ n → runs m s u → readingOf u = readingOf s) ∧
    (∀ (m : Nat) (u w : State), m < n → runs m s u → step u = .next w →
      (takenAction u = some (.hostRead 0x040#12) → w.busReads = u.busReads ++ [s.totalRaw]) ∧
      (takenAction u = some (.hostRead 0x044#12) → w.busReads = u.busReads ++ [s.monthRaw]) ∧
      (takenAction u = some (.hostRead 0x048#12) →
        w.busReads = u.busReads ++ [0#8 ++ s.readingCi ++ s.ambientTemp ++ s.flowTemp]))

/-- R79, with R42 and R170: a byte leaves `rxq` only from its head, one per step, in a turn of the CORE in PRE0,
PRE1, LEN or BODY; the RADIO appends at the tail, one byte a step, or flushes. -/
def Obligations.ReceivedBytesAreTakenInOrder : Prop :=
  ∀ s t : State, step s = .next t →
    t.rxq = s.rxq ∨
      (takesCoreTurn s ∧ s.phase ∈ [Phase.pre0, .pre1, .len, .body] ∧ ∃ b, s.rxq = b :: t.rxq) ∨
      (∃ b, takenAction s = some (.radioByte b) ∧ t.rxq = s.rxq ++ [b]) ∨
      (takenAction s = some .radioFlush ∧ t.rxq = [])

/-- One Rearm per ended frame attempt (41_acquisition.md R167) and one per START (40_host_commands.md R124), and no
other: not by a pass, STOP, SOFT_RESET, reset, a failed START, or any other step. -/
def Obligations.RearmIsEmittedExactlyAtAttemptEndsAndStart : Prop :=
  ∀ s t : State, step s = .next t →
    (((takesCoreTurn s ∧ s.phase ∈ [Phase.pre1, .len, .body] ∧ t.phase ∈ [Phase.waitSync, .proc]) ∨
        (takesCommand s 0x00000002#32 ∧ s.en = false ∧ s.keyValid = true ∧ s.idValid = true)) →
      t.rearmEvents = s.rearmEvents ++ [.rearm]) ∧
    (¬ ((takesCoreTurn s ∧ s.phase ∈ [Phase.pre1, .len, .body] ∧ t.phase ∈ [Phase.waitSync, .proc]) ∨
        (takesCommand s 0x00000002#32 ∧ s.en = false ∧ s.keyValid = true ∧ s.idValid = true)) →
      t.rearmEvents = s.rearmEvents)

/-! ### The CORE -/

/-- The enabling table of 10_state.md R22, and holding (00_scope.md R12, 41_acquisition.md R169): a turn changes
the state exactly when the CORE has an enabled step. -/
def Obligations.CoreMovesExactlyWhenEnabled : Prop :=
  ∀ s : State, coreStep s ≠ s ↔
    ((s.phase = .waitSync ∧ s.syncN = false) ∨
      (s.phase ∈ [Phase.pre0, .pre1, .len, .body] ∧ s.rxq ≠ []) ∨ s.phase = .proc)

/-- R160: sync detection is a level, active low; no byte is consumed. -/
def Obligations.SyncDetectionIsALowLevel : Prop :=
  ∀ s : State, s.phase = .waitSync →
    (s.syncN = false → coreStep s = { s with phase := .pre0 }) ∧ (s.syncN = true → coreStep s = s)

/-- R162: preamble byte 0 is stored and not yet compared; the CORE holds while `rxq` is empty. -/
def Obligations.PreambleByteZeroIsStored : Prop :=
  ∀ s : State, s.phase = .pre0 →
    (∀ b bs, s.rxq = b :: bs → coreStep s = { s with preByte0 := b, rxq := bs, phase := .pre1 }) ∧
    (s.rxq = [] → coreStep s = s)

/-- R163: the preamble is exactly the pair 0x54, 0x3D; anything else is PREAMBLE_MISS with EV_DROP and one Rearm. -/
def Obligations.PreamblePairIsCompared : Prop :=
  ∀ s : State, s.phase = .pre1 →
    (∀ b bs, s.rxq = b :: bs → s.preByte0 = 0x54#8 → b = 0x3D#8 →
      coreStep s = { s with rxq := bs, phase := .len }) ∧
    (∀ b bs, s.rxq = b :: bs → (s.preByte0 ≠ 0x54#8 ∨ b ≠ 0x3D#8) →
      coreStep s = { s with
        rxq := bs, rearmEvents := s.rearmEvents ++ [.rearm], frameResult := .preambleMiss,
        events := { s.events with drop := true }, phase := .waitSync }) ∧
    (s.rxq = [] → coreStep s = s)

/-- R164, with the validator of R161: the length byte is always stored; 18 to 63 go on to BODY, any other is
LENGTH_INVALID with EV_WARN and one Rearm, and no byte of the body is read. -/
def Obligations.LengthByteIsValidated : Prop :=
  ∀ s : State, s.phase = .len →
    (∀ l bs, s.rxq = l :: bs → 18 ≤ l.toNat → l.toNat ≤ 63 →
      coreStep s = { s with rxq := bs, frameLen := l, bodyCnt := 0#6, phase := .body }) ∧
    (∀ l bs, s.rxq = l :: bs → (l.toNat < 18 ∨ 63 < l.toNat) →
      coreStep s = { s with
        rxq := bs, frameLen := l, rearmEvents := s.rearmEvents ++ [.rearm], frameResult := .lengthInvalid,
        events := { s.events with warn := true }, phase := .waitSync }) ∧
    (s.rxq = [] → coreStep s = s)

/-- The body reader and EndOfBody (R165, R166): one byte stored at FRAME_BUF[BODY_CNT], every other byte as it was;
with the last byte one Rearm, FRAMES_RX + 1 and PROC. -/
def Obligations.BodyByteIsStored : Prop :=
  ∀ (s : State) (b : Byte) (bs : List Byte), s.phase = .body → lenOk s.frameLen.toNat = true →
    s.bodyCnt.toNat < s.frameLen.toNat → s.rxq = b :: bs →
    ∃ m : Memory,
      (∀ a, Memory.byteAt m a = if a = 0x100 + s.bodyCnt.toNat then b else Memory.byteAt s.mem a) ∧
      (s.bodyCnt.toNat + 1 < s.frameLen.toNat →
        coreStep s = { s with rxq := bs, mem := m, bodyCnt := s.bodyCnt + 1#6 }) ∧
      (s.bodyCnt.toNat + 1 = s.frameLen.toNat →
        coreStep s = { s with
          rxq := bs, mem := m, bodyCnt := s.bodyCnt + 1#6, rearmEvents := s.rearmEvents ++ [.rearm],
          framesRx := s.framesRx + 1#32, phase := .proc })

/-- R168: `sync_n` is read only in WAIT_SYNC; in any other phase its level has no effect. -/
def Obligations.SyncLevelIsIgnoredInsideAFrame : Prop :=
  ∀ (s : State) (level : Bool), s.phase ≠ .waitSync →
    coreStep { s with syncN := level } = { coreStep s with syncN := level }

/-- The whole radio path (R160 to R166, R270, 20_memory.md R79): with `sync_n` low and the preamble, a valid
length and that many bytes in `rxq`, that many turns of the CORE take exactly those bytes, store the frame, emit one
Rearm, count the frame, and run the pass on it. -/
def Obligations.RadioPathReceivesAWholeFrame : Prop :=
  ∀ (s : State) (frame rest : List Byte), s.phase = .waitSync → s.syncN = false →
    18 ≤ frame.length → frame.length ≤ 63 →
    s.rxq = 0x54#8 :: 0x3D#8 :: BitVec.ofNat 8 frame.length :: (frame ++ rest) →
    coreStep^[frame.length + 5] s =
      { framePass frame.length
          { s with
            phase := .proc, preByte0 := 0x54#8, frameLen := BitVec.ofNat 8 frame.length,
            bodyCnt := BitVec.ofNat 6 frame.length, mem := Memory.writeBytes s.mem 0x100 frame, rxq := rest,
            framesRx := s.framesRx + 1#32, rearmEvents := s.rearmEvents ++ [.rearm] } with
        phase := .waitSync }

/-- R171: the address matches exactly when the four bytes equal the identity in reverse order, equivalently when
`le32(F, 3) = METER_ID`. -/
def Obligations.AddressIsMatchedInReverse : Prop :=
  ∀ s : State,
    (addrMatch s = true ↔
      frameByte s 3 = idByte s 3 ∧ frameByte s 4 = idByte s 2 ∧ frameByte s 5 = idByte s 1 ∧
        frameByte s 6 = idByte s 0) ∧
    (addrMatch s = true ↔ le32 (frameByte s) 3 = s.meterId) ∧
    (∀ j, j < 4 → (idByte s j).toNat = s.meterId.toNat / 2 ^ (24 - 8 * j) % 256)

/-! ### The frame pass -/

/-- The stage order of 45_parser.md R270 and the priority of 60_exceptions.md R287: the result of a pass is that of
the first stage that raises, computed from the frame, the identity and the round keys alone. -/
def Obligations.PassResultFollowsTheStageOrder : Prop :=
  ∀ (s : State) (l : Nat), 18 ≤ l → l ≤ 63 →
    (¬ addressed s → (framePass l s).frameResult = .addressMiss) ∧
    (addressed s → l = 18 → (framePass l s).frameResult = .cipherLength) ∧
    (addressed s → l = 19 → (framePass l s).frameResult = .payloadShort) ∧
    (addressed s → 20 ≤ l → payloadStoredCrc s ≠ payloadCrc s (l - 18) →
      (framePass l s).frameResult = .crcMismatch) ∧
    (addressed s → 20 ≤ l → payloadStoredCrc s = payloadCrc s (l - 18) →
      (framePass l s).frameResult =
        if l = 20 then .payloadShort
        else if payloadByte s 2 = 0x79#8 then (if l < 37 then .payloadShort else .readingOk)
        else if payloadByte s 2 = 0x78#8 then (if l < 48 then .payloadShort else .readingOk)
        else .unknownCi)

/-- What a pass writes, by how far it got (45_parser.md R271), the reading's registers apart: IV, plaintext,
CRC_VAL, CRC_ERRS, the event, the internal counter, and nothing else. That CTR holds the counter after the last block
is the model's choice (log 15); no observer sees it. -/
def Obligations.PassWritesWhatItReached : Prop :=
  ∀ (s t : State) (l : Nat), 18 ≤ l → l ≤ 63 → t = framePass l s →
    ((t.frameResult = .addressMiss ∨ t.frameResult = .cipherLength) →
      t = { s with frameResult := t.frameResult, events := t.events }) ∧
    (t.frameResult ≠ .addressMiss → t.frameResult ≠ .cipherLength →
      t.ivr = deriveIv (frameByte s) ∧
      (∀ a, Memory.byteAt t.mem a =
        if 0x140 ≤ a ∧ a < 0x140 + (l - 18) then payloadByte s (a - 0x140) else Memory.byteAt s.mem a) ∧
      (t.readCrc = if l = 19 then s.readCrc else payloadStoredCrc s) ∧
      (t.calcCrc = if l = 19 then s.calcCrc else payloadCrc s (l - 18)) ∧
      t.ctr = deriveIv (frameByte s) + BitVec.ofNat 128 ((l - 18 + 15) / 16)) ∧
    (t.crcErrs = if t.frameResult = .crcMismatch then s.crcErrs + 1#32 else s.crcErrs) ∧
    (t.frameResult = .addressMiss → t.events = { s.events with drop := true }) ∧
    (t.frameResult ∈ [FrameResult.cipherLength, .payloadShort, .crcMismatch, .unknownCi] →
      t.events = { s.events with warn := true }) ∧
    (t.frameResult = .readingOk →
      t.events = { s.events with reading := true, ovr := s.events.ovr || s.events.reading }) ∧
    (t.frameResult ≠ .readingOk → readingOf t = readingOf s ∧ t.resValid = s.resValid) ∧
    t = { s with
      ivr := t.ivr, mem := t.mem, ctr := t.ctr, readCrc := t.readCrc, calcCrc := t.calcCrc, crcErrs := t.crcErrs,
      frameResult := t.frameResult, events := t.events, totalRaw := t.totalRaw, monthRaw := t.monthRaw,
      flowTemp := t.flowTemp, ambientTemp := t.ambientTemp, readingCi := t.readingCi, resValid := t.resValid }

/-- The fields of a committed reading (45_parser.md R263, R264, R266): little-endian words and single bytes of the
plaintext at the offsets of the layout the CI byte selects. -/
def Obligations.CommittedReadingHasTheLayoutsFields : Prop :=
  ∀ (s t : State) (l : Nat), 18 ≤ l → l ≤ 63 → t = framePass l s → t.frameResult = .readingOk →
    t.resValid = true ∧ t.readingCi = payloadByte s 2 ∧
    (payloadByte s 2 = 0x79#8 →
      t.totalRaw = payloadByte s 12 ++ payloadByte s 11 ++ payloadByte s 10 ++ payloadByte s 9 ∧
      t.monthRaw = payloadByte s 16 ++ payloadByte s 15 ++ payloadByte s 14 ++ payloadByte s 13 ∧
      t.flowTemp = payloadByte s 17 ∧ t.ambientTemp = payloadByte s 18) ∧
    (payloadByte s 2 = 0x78#8 →
      t.totalRaw = payloadByte s 13 ++ payloadByte s 12 ++ payloadByte s 11 ++ payloadByte s 10 ∧
      t.monthRaw = payloadByte s 19 ++ payloadByte s 18 ++ payloadByte s 17 ++ payloadByte s 16 ∧
      t.flowTemp = payloadByte s 23 ∧ t.ambientTemp = payloadByte s 29)

/-! ### The commands -/

/-- R122: NOP is the word 0, leaves everything but CMD_RESULT, and is allowed while EN = 1; with any other bit set
the word is ILLEGAL. -/
def Obligations.NopChangesOnlyTheCommandResult : Prop :=
  decode 0x00000000#32 = .ok .nop ∧ (∀ s : State, exec .nop s = .next { s with cmdResult := .ok }) ∧
  (∀ (w : Word) (s : State), w.toNat % 256 = 0x00 → w ≠ 0x00000000#32 →
    memWrite 0x008#12 w s = .next { s with cmdResult := .illegal, events := { s.events with cmdErr := true } })

/-- KEY_LOAD (40_host_commands.md R123): the staged key becomes the active key and is expanded; the staging stays. -/
def Obligations.KeyLoadActivatesTheStagedKey : Prop :=
  ∀ s : State, s.en = false →
    exec .keyLoad s = .next { s with k := s.ks, rk := keyExpansion s.ks, keyValid := true, cmdResult := .ok }

/-- START (R124): EN, WAIT_SYNC, BODY_CNT = 0, one Rearm; event bits, counters and readings stay. -/
def Obligations.StartArmsTheReceiver : Prop :=
  ∀ s : State, s.en = false → s.keyValid = true → s.idValid = true →
    exec .start s = .next { s with
      en := true, phase := .waitSync, bodyCnt := 0#6, rearmEvents := s.rearmEvents ++ [.rearm], cmdResult := .ok }

/-- STOP (R125): ABORTED only in PRE0, PRE1, LEN, BODY, no event bit, no Rearm; with EN = 0 a no-op that ends OK. -/
def Obligations.StopEndsAcquisition : Prop :=
  ∀ s : State,
    (s.en = true → s.phase ∈ [Phase.pre0, .pre1, .len, .body] →
      exec .stop s = .next { s with
        frameResult := .aborted, en := false, phase := .off, bodyCnt := 0#6, cmdResult := .ok }) ∧
    (s.en = true → s.phase ∉ [Phase.pre0, .pre1, .len, .body] →
      exec .stop s = .next { s with en := false, phase := .off, bodyCnt := 0#6, cmdResult := .ok }) ∧
    (s.en = false → exec .stop s = .next { s with cmdResult := .ok })

/-- PROCESS (R126): a frame pass on FRAME_BUF with the host's length, CMD_RESULT OK whatever its outcome; a bad
length is LENGTH_INVALID. No Rearm is emitted and FRAMES_RX does not change. -/
def Obligations.ProcessRunsAPassOnTheHostsFrame : Prop :=
  ∀ s : State, s.en = false → s.keyValid = true → s.idValid = true →
    (18 ≤ s.frameLen.toNat → s.frameLen.toNat ≤ 63 →
      ∃ t, exec .process s = .next t ∧ t = { framePass s.frameLen.toNat s with cmdResult := .ok } ∧
        t.rearmEvents = s.rearmEvents ∧ t.framesRx = s.framesRx ∧ t.phase = s.phase ∧ t.en = false) ∧
    ((s.frameLen.toNat < 18 ∨ 63 < s.frameLen.toNat) →
      exec .process s = .next { s with
        frameResult := .lengthInvalid, events := { s.events with warn := true }, cmdResult := .ok })

/-- DERIVE_IV (R127) and the IV of 42_decryptor.md R194, byte by byte; it needs neither key nor identity. -/
def Obligations.DeriveIvTakesTheHeaderBytes : Prop :=
  ∀ s : State, s.en = false →
    ∃ iv : Block, exec .deriveIv s = .next { s with ivr := iv, cmdResult := .ok } ∧
      (∀ j, j < 8 → blockByte iv j = frameByte s (1 + j)) ∧ blockByte iv 8 = frameByte s 10 ∧
      (∀ j, j < 4 → blockByte iv (9 + j) = frameByte s (12 + j)) ∧
      (∀ j, j < 3 → blockByte iv (13 + j) = 0x00#8)

/-- CTR (R128, 42_decryptor.md R197, R198): each byte of PLAIN_BUF[A..A+N) is xored with the keystream byte of its
position, every other byte stays, IVR stays; the internal CTR ends at the counter after the last block. -/
def Obligations.CtrCommandXorsTheKeystream : Prop :=
  ∀ (s : State) (a n : Nat), s.en = false → s.keyValid = true → 1 ≤ n → a + n ≤ 48 →
    ∃ m : Memory,
      exec (.ctr a n) s = .next { s with
        mem := m, ctr := s.ivr + BitVec.ofNat 128 ((n + 15) / 16), cmdResult := .ok } ∧
      (∀ j, j < n → Memory.byteAt m (0x140 + a + j) =
        plainByte s (a + j) ^^^ blockByte (aesEncrypt (s.ivr + BitVec.ofNat 128 (j / 16)) s.rk) (j % 16)) ∧
      (∀ x, ¬ (0x140 + a ≤ x ∧ x < 0x140 + a + n) → Memory.byteAt m x = Memory.byteAt s.mem x)

/-- CTR twice with the same IVR and key restores the data (R128, R200). -/
def Obligations.CtrCommandTwiceRestoresTheData : Prop :=
  ∀ (s t u : State) (a n : Nat), s.en = false → s.keyValid = true → 1 ≤ n → a + n ≤ 48 →
    exec (.ctr a n) s = .next t → exec (.ctr a n) t = .next u →
      ∀ x, Memory.byteAt u.mem x = Memory.byteAt s.mem x

/-- CRC (R129): CALC_CRC of PLAIN_BUF[A..A+N); READ_CRC and the buffer stay; no key is needed; N = 0 gives 0xFFFF. -/
def Obligations.CrcCommandComputesTheCrc : Prop :=
  ∀ (s : State) (a n : Nat), s.en = false → a + n ≤ 48 →
    exec (.crc a n) s = .next { s with
      calcCrc := crc16 ((List.range n).map fun j => plainByte s (a + j)), cmdResult := .ok } ∧
    (n = 0 → exec (.crc a n) s = .next { s with calcCrc := 0xFFFF#16, cmdResult := .ok })

/-- AES_BLOCK (R130): the block PLAIN_BUF[A..A+16) is replaced by its encryption, every other byte stays. -/
def Obligations.AesBlockEncryptsInPlace : Prop :=
  ∀ (s : State) (a : Nat), s.en = false → s.keyValid = true → a ≤ 32 →
    ∃ m : Memory,
      exec (.aesBlock a) s = .next { s with mem := m, cmdResult := .ok } ∧
      (∀ inp : Block, (∀ j, j < 16 → blockByte inp j = plainByte s (a + j)) →
        ∀ j, j < 16 → Memory.byteAt m (0x140 + a + j) = blockByte (aesEncrypt inp s.rk) j) ∧
      (∀ x, ¬ (0x140 + a ≤ x ∧ x < 0x140 + a + 16) → Memory.byteAt m x = Memory.byteAt s.mem x)

/-- SOFT_RESET and the reset input (R131; 70_reset_and_hazards.md R332): the same state, but for CMD_RESULT = OK
after SOFT_RESET; both in any state; FRAME_RESULT is NONE and the bytes in `rxq` stay. -/
def Obligations.SoftResetIsResetWithResultOk : Prop :=
  (∀ s : State, exec .softReset s = .next { resetBlock s with cmdResult := .ok } ∧
    resultWord { resetBlock s with cmdResult := .ok } = 0x00000100#32) ∧
  (∀ s : State, perform .resetInput s = .next (resetBlock s) ∧ resultWord (resetBlock s) = 0x00000000#32) ∧
  (∀ s : State, (resetBlock s).frameResult = .none ∧ (resetBlock s).rxq = s.rxq)

/-- ResetState (70_reset_and_hazards.md R330): every register at its reset value, whatever the drawn values are;
`rearm_events`, `rxq` and `sync_n` stay; every mapped register but the buffer windows reads 0, after a reset and at
power-on; `irq` is 0. -/
def Obligations.ResetLeavesTheResetValues : Prop :=
  ∀ s : State,
    resetBlock s = { s with
      en := false, keyValid := false, idValid := false, resValid := false, phase := .off,
      events := ⟨false, false, false, false, false, false⟩, irqEn := ⟨false, false, false, false, false, false⟩,
      frameResult := .none, cmdResult := .none, meterId := 0#32, frameLen := 0#8, calcCrc := 0#16, readCrc := 0#16,
      ks := 0#128, k := 0#128, rk := (resetBlock s).rk, ivr := 0#128, totalRaw := 0#32, monthRaw := 0#32,
      flowTemp := 0#8, ambientTemp := 0#8, readingCi := 0#8, framesRx := 0#32, crcErrs := 0#32,
      mem := (resetBlock s).mem, preByte0 := (resetBlock s).preByte0, bodyCnt := 0#6, ctr := (resetBlock s).ctr,
      draws := (resetBlock s).draws } ∧
    irq (resetBlock s) = false ∧ irq State.reset = false ∧
    (∀ a : BusAddr, mapped a.toNat → a.toNat < 0x100 →
      memRead a (resetBlock s) = (0#32, resetBlock s) ∧ memRead a State.reset = (0#32, State.reset))

/-- R121, R288: the result of a command word is the first of ILLEGAL, BUSY, NOT_READY, BAD_OPERAND that applies, and
OK if none does. -/
def Obligations.CommandResultFollowsTheCheckOrder : Prop :=
  ∀ (w : Word) (s : State), ∃ t, memWrite 0x008#12 w s = .next t ∧
    ((∀ i, ¬ rowHit w i) → t.cmdResult = .illegal) ∧
    (∀ (opc a n : Nat), (∃ i, rowHit w i) → opc = w.toNat % 256 → a = w.toNat / 2 ^ 8 % 64 →
      n = w.toNat / 2 ^ 16 % 64 →
      t.cmdResult =
        if s.en = true ∧ opc ∉ [0x00, 0x03, 0x0F] then .busy
        else if opc ∈ [0x02, 0x04, 0x06, 0x08] ∧ s.keyValid = false then .notReady
        else if opc ∈ [0x02, 0x04] ∧ s.idValid = false then .notReady
        else if opc = 0x06 ∧ ¬ (1 ≤ n ∧ a + n ≤ 48) then .badOperand
        else if opc = 0x07 ∧ ¬ (a + n ≤ 48) then .badOperand
        else if opc = 0x08 ∧ ¬ (a + 16 ≤ 48) then .badOperand
        else .ok)

/-- R120: a command whose check fails changes nothing but CMD_RESULT and EV_CMD_ERR. -/
def Obligations.FailedCommandChangesNothingElse : Prop :=
  ∀ (w : Word) (s t : State), memWrite 0x008#12 w s = .next t → t.cmdResult ≠ .ok →
    t = { s with cmdResult := t.cmdResult, events := { s.events with cmdErr := true } }

/-! ### The host bus -/

/-- R64, R65: a misaligned or unmapped access reads 0, writes nothing, and sets EV_ACC_ERR. -/
def Obligations.MisalignedAndUnmappedAccessesAreIgnored : Prop :=
  ∀ (a : BusAddr) (v : Word) (s : State), (a.toNat % 4 ≠ 0 ∨ ¬ mapped a.toNat) →
    memRead a s = (0#32, { s with events := { s.events with accErr := true } }) ∧
    memWrite a v s = .next { s with events := { s.events with accErr := true } }

/-- R66 and 70_reset_and_hazards.md R340: a write of a read-only register, or of a locked one while EN = 1, changes
nothing but EV_ACC_ERR; STATUS, IRQ_EN and CMD are never locked. -/
def Obligations.ReadOnlyAndLockedWritesAreIgnored : Prop :=
  ∀ (v : Word) (s : State),
    (∀ a : BusAddr, a.toNat ∈ [0x00C, 0x018, 0x040, 0x044, 0x048, 0x04C, 0x050] →
      memWrite a v s = .next { s with events := { s.events with accErr := true } }) ∧
    (∀ a : BusAddr, lockable a.toNat → s.en = true →
      memWrite a v s = .next { s with events := { s.events with accErr := true } }) ∧
    memWrite 0x000#12 v s = .next { s with events := EventBits.w1c s.events v } ∧
    (∃ t, memWrite 0x004#12 v s = .next t ∧ (memRead 0x004#12 t).1 = v &&& 0x003F0000#32 ∧
      t = { s with irqEn := t.irqEn }) ∧
    (∀ i, decode v = .ok i → memWrite 0x008#12 v s = exec i s)

/-- An accepted write reads back (10_state.md R30, R31, R33, R35, R39, R40; 20_memory.md R67): METER_ID, IV words
and buffer words give the word written, FRAME_LEN its low byte, KEY words 0; a read of any other mapped address but
STATUS gives what it gave before, and STATUS changes only in ID_VALID, which METER_ID sets. A write of KEYj stores its
four bytes in KS[4j..4j+4), and no other staging byte changes (R33, R63). Nothing outside the registers and buffers
written so changes. -/
def Obligations.AcceptedWritesReadBack : Prop :=
  ∀ (a : BusAddr) (v : Word) (s : State), lockable a.toNat → s.en = false →
    ∃ t, memWrite a v s = .next t ∧
      (memRead a t = (if a.toNat = 0x014 then v &&& 0x000000FF#32
        else if 0x020 ≤ a.toNat ∧ a.toNat < 0x030 then 0#32 else v, t)) ∧
      (∀ b : BusAddr, mapped b.toNat → b ≠ a → b.toNat ≠ 0x000 → (memRead b t).1 = (memRead b s).1) ∧
      (statusWord t = if a.toNat = 0x010 then statusWord s ||| 0x00000004#32 else statusWord s) ∧
      (∀ i, i < 16 → blockByte t.ks i =
        if a.toNat < 0x030 ∧ 0x020 + i < a.toNat + 4 ∧ a.toNat ≤ 0x020 + i then wordByte v (0x020 + i - a.toNat)
        else blockByte s.ks i) ∧
      t = { s with
        meterId := t.meterId, idValid := t.idValid, frameLen := t.frameLen, ks := t.ks, ivr := t.ivr, mem := t.mem }

/-- A mapped read changes nothing and, whatever EN is, returns nothing that depends on the key: two states that
differ only in the staging, the key and the round keys answer every read alike (R62, R70; 10_state.md R33). -/
def Obligations.NoReadRevealsTheKey : Prop :=
  ∀ (a : BusAddr) (s : State) (ks k : Block) (rk : Vector Block 11),
    (mapped a.toNat → (memRead a s).2 = s) ∧
    (memRead a { s with ks := ks, k := k, rk := rk }).1 = (memRead a s).1

/-- The layout of STATUS (10_state.md R22, R23): the four flags, PHASE in bits 6:4, the six events in bits 21:16, and
zero in every other bit. And what the host reads at every other register and buffer word of the map (R28 to R40;
20_memory.md R62, R67): IRQ_EN, RESULT with the codes of 60_exceptions.md R281 and R282, METER_ID, FRAME_LEN, CRC_VAL,
the IV words, the reading, the counters, the buffer words. CMD and the KEY words read 0. -/
def Obligations.StatusWordHoldsItsFields : Prop :=
  ∀ s : State,
    (memRead 0x000#12 s).1 = statusWord s ∧
    (statusWord s).getLsbD 0 = s.en ∧ (statusWord s).getLsbD 1 = s.keyValid ∧ (statusWord s).getLsbD 2 = s.idValid ∧
    (statusWord s).getLsbD 3 = s.resValid ∧
    (statusWord s).extractLsb' 4 3 =
      (match s.phase with
        | .off => 0#3 | .waitSync => 1#3 | .pre0 => 2#3 | .pre1 => 3#3 | .len => 4#3 | .body => 5#3 | .proc => 6#3) ∧
    (statusWord s).getLsbD 16 = s.events.reading ∧ (statusWord s).getLsbD 17 = s.events.warn ∧
    (statusWord s).getLsbD 18 = s.events.drop ∧ (statusWord s).getLsbD 19 = s.events.ovr ∧
    (statusWord s).getLsbD 20 = s.events.cmdErr ∧ (statusWord s).getLsbD 21 = s.events.accErr ∧
    (∀ b, (7 ≤ b ∧ b ≤ 15) ∨ 22 ≤ b → (statusWord s).getLsbD b = false) ∧
    (memRead 0x004#12 s).1 = 0#10 ++ BitVec.ofBool s.irqEn.accErr ++ BitVec.ofBool s.irqEn.cmdErr ++
      BitVec.ofBool s.irqEn.ovr ++ BitVec.ofBool s.irqEn.drop ++ BitVec.ofBool s.irqEn.warn ++
      BitVec.ofBool s.irqEn.reading ++ 0#16 ∧
    (memRead 0x008#12 s).1 = 0#32 ∧
    (memRead 0x00C#12 s).1 = 0#16 ++
      (match s.cmdResult with
        | .none => 0x00#8 | .ok => 0x01#8 | .illegal => 0x02#8 | .busy => 0x03#8 | .notReady => 0x04#8
        | .badOperand => 0x05#8) ++
      (match s.frameResult with
        | .none => 0x00#8 | .readingOk => 0x01#8 | .preambleMiss => 0x02#8 | .lengthInvalid => 0x03#8
        | .addressMiss => 0x04#8 | .cipherLength => 0x05#8 | .payloadShort => 0x06#8 | .crcMismatch => 0x07#8
        | .unknownCi => 0x08#8 | .aborted => 0x09#8) ∧
    (memRead 0x010#12 s).1 = s.meterId ∧ (memRead 0x014#12 s).1 = 0#24 ++ s.frameLen ∧
    (memRead 0x018#12 s).1 = s.readCrc ++ s.calcCrc ∧
    (memRead 0x040#12 s).1 = s.totalRaw ∧ (memRead 0x044#12 s).1 = s.monthRaw ∧
    (memRead 0x048#12 s).1 = 0#8 ++ s.readingCi ++ s.ambientTemp ++ s.flowTemp ∧
    (memRead 0x04C#12 s).1 = s.framesRx ∧ (memRead 0x050#12 s).1 = s.crcErrs ∧
    (∀ j : Fin 4, (memRead (BitVec.ofNat 12 (0x020 + 4 * j.val)) s).1 = 0#32) ∧
    (∀ j : Fin 4, (memRead (BitVec.ofNat 12 (0x030 + 4 * j.val)) s).1 =
      blockByte s.ivr (4 * j.val) ++ blockByte s.ivr (4 * j.val + 1) ++ blockByte s.ivr (4 * j.val + 2) ++
        blockByte s.ivr (4 * j.val + 3)) ∧
    (∀ j : Fin 16, (memRead (BitVec.ofNat 12 (0x100 + 4 * j.val)) s).1 =
      frameByte s (4 * j.val) ++ frameByte s (4 * j.val + 1) ++ frameByte s (4 * j.val + 2) ++
        frameByte s (4 * j.val + 3)) ∧
    (∀ j : Fin 12, (memRead (BitVec.ofNat 12 (0x140 + 4 * j.val)) s).1 =
      plainByte s (4 * j.val) ++ plainByte s (4 * j.val + 1) ++ plainByte s (4 * j.val + 2) ++
        plainByte s (4 * j.val + 3))

/-- W1C (20_memory.md R63): a write of STATUS clears exactly the event bits whose bit is 1 in the word written; no
other bit of STATUS and nothing else changes. -/
def Obligations.StatusWriteClearsExactlyTheNamedEvents : Prop :=
  ∀ (v : Word) (s : State), ∃ t, memWrite 0x000#12 v s = .next t ∧ t = { s with events := t.events } ∧
    ∀ b, (statusWord t).getLsbD b = ((statusWord s).getLsbD b && !(decide (16 ≤ b ∧ b ≤ 21) && v.getLsbD b))

/-- R285: `irq` is the OR over bits 16 to 21 of STATUS and IRQ_EN, a level computed from what the host reads. -/
def Obligations.IrqIsTheMaskedOrOfTheEvents : Prop :=
  ∀ s : State,
    (irq s = true ↔ ∃ b, 16 ≤ b ∧ b ≤ 21 ∧ (statusWord s).getLsbD b = true ∧ (irqEnWord s).getLsbD b = true) ∧
    (irqEnWord s = 0#32 → irq s = false) ∧ (memRead 0x004#12 s).1 = irqEnWord s

/-! ### The units -/

/-- R200: counter mode is an involution, byte-local, and keeps the length. -/
def Obligations.CounterModeIsAnInvolutionAndLocal : Prop :=
  ∀ (d : List Byte) (iv : Block) (rk : Vector Block 11),
    (ctrXor (ctrXor d iv rk).1 iv rk).1 = d ∧
    (∀ (j : Nat) (x : Byte), j < d.length →
      (ctrXor (d.set j x) iv rk).1 =
        (ctrXor d iv rk).1.set j ((ctrXor d iv rk).1.getD j 0#8 ^^^ (d.getD j 0#8 ^^^ x))) ∧
    (ctrXor d iv rk).1.length = d.length

/-- R195, R196: the counter of an IV is its big-endian number, and the increment wraps modulo 2^128. -/
def Obligations.CounterIsBigEndianAndWraps : Prop :=
  (∀ x : Nat → Byte, (blockOfBytes x).toNat = (List.range 16).foldl (fun acc i => 256 * acc + (x i).toNat) 0) ∧
  (∀ c : Block, (incCounter c).toNat = (c.toNat + 1) % 2 ^ 128)

/-- R213, R214: the S-box table is the affine image of the inverse in GF(2^8), and that inverse is one. -/
def Obligations.SboxTableIsItsDefinition : Prop :=
  (∀ x : Byte, sbox x = sboxAlgebraic x) ∧ (∀ x : Byte, x ≠ 0#8 → gfMul x (gfInv x) = 0x01#8) ∧ gfInv 0#8 = 0#8

/-- R215 to R218: the four round transformations, byte by byte of the 4 by 4 state. -/
def Obligations.AesRoundTransformsActOnBytes : Prop :=
  ∀ (s : Block) (rk : Vector Block 11) (r c : Nat) (k : Fin 11), r < 4 → c < 4 →
    blockByte (subBytes s) (r + 4 * c) = sbox (blockByte s (r + 4 * c)) ∧
    blockByte (shiftRows s) (r + 4 * c) = blockByte s (r + 4 * ((c + r) % 4)) ∧
    blockByte (mixColumns s) (r + 4 * c) =
      (gfMul (blockByte s (r + 4 * c)) 0x02#8) ^^^ (gfMul (blockByte s ((r + 1) % 4 + 4 * c)) 0x03#8) ^^^
        blockByte s ((r + 2) % 4 + 4 * c) ^^^ blockByte s ((r + 3) % 4 + 4 * c) ∧
    blockByte (addRoundKey rk k s) (r + 4 * c) = blockByte s (r + 4 * c) ^^^ blockByte rk[k] (r + 4 * c)

/-- R220, R221: the round keys are the words of the recurrence of the key expansion, four to a round key. -/
def Obligations.KeyExpansionFollowsTheRecurrence : Prop :=
  ∀ key : Block, ∃ w : Nat → Word,
    (∀ i, i < 4 → w i = wordOfBytes (blockByte key (4 * i)) (blockByte key (4 * i + 1)) (blockByte key (4 * i + 2))
      (blockByte key (4 * i + 3))) ∧
    (∀ i, 4 ≤ i → i < 44 → i % 4 ≠ 0 → w i = w (i - 4) ^^^ w (i - 1)) ∧
    (∀ i, 4 ≤ i → i < 44 → i % 4 = 0 →
      w i = w (i - 4) ^^^ wordOfBytes
        (sbox (wordByte (w (i - 1)) 1) ^^^
          BitVec.ofNat 8 ([0x01, 0x02, 0x04, 0x08, 0x10, 0x20, 0x40, 0x80, 0x1B, 0x36].getD (i / 4 - 1) 0))
        (sbox (wordByte (w (i - 1)) 2)) (sbox (wordByte (w (i - 1)) 3)) (sbox (wordByte (w (i - 1)) 0))) ∧
    (∀ r : Fin 11, (keyExpansion key)[r] =
      w (4 * r.val) ++ w (4 * r.val + 1) ++ w (4 * r.val + 2) ++ w (4 * r.val + 3)) ∧
    (keyExpansion key)[(0 : Fin 11)] = key

/-- The conformance vector of R224 (FIPS-197 Appendix C.1), and the last round key of R221. -/
def Obligations.AesMeetsTheConformanceVector : Prop :=
  aesEncrypt 0x00112233445566778899AABBCCDDEEFF#128 (keyExpansion 0x000102030405060708090A0B0C0D0E0F#128) =
      0x69C4E0D86A7B0430D8CDB78070B4C55A#128 ∧
    (keyExpansion 0x000102030405060708090A0B0C0D0E0F#128)[(10 : Fin 11)] = 0x13111D7FE3944A17F307A78B4D2B30C5#128

/-- R243: the bitwise and the table form of the CRC agree on every input. R242: the table form, and the table it prints,
whose entry `v` is the register after eight repetitions from `v << 8`. -/
def Obligations.CrcFormsAgreeOnEveryInput : Prop :=
  (∀ x : List Byte, crc16Table x = crc16 x) ∧
  (∀ x : List Byte, crc16Table x =
    x.foldl (fun (r : Half) b => (r <<< 8) ^^^ crcTable ((r >>> 8).setWidth 8 ^^^ b)) 0x0000#16 ^^^ 0xFFFF#16) ∧
  (∀ v : Byte, crcTable v = Nat.repeat crcShift 8 (v.setWidth 16 <<< 8))

/-- R244: the empty input gives 0xFFFF, and leading zero bytes do not change the CRC. -/
def Obligations.CrcIgnoresLeadingZeros : Prop :=
  crc16 [] = 0xFFFF#16 ∧ crc16 [0x00#8] = 0xFFFF#16 ∧ ∀ x : List Byte, crc16 (0x00#8 :: x) = crc16 x

/-! ### The radio -/

/-- The RADIO is free (60_exceptions.md R314): in any state it may append a byte, set the level or flush, and each
touches its own input only (10_state.md R42). -/
def Obligations.RadioTouchesOnlyItsInputs : Prop :=
  ∀ (s : State) (rest : List Action),
    (∀ b, s.agenda = .radioByte b :: rest → step s = .next { s with rxq := s.rxq ++ [b], agenda := rest }) ∧
    (∀ l, s.agenda = .radioSync l :: rest → step s = .next { s with syncN := l, agenda := rest }) ∧
    (s.agenda = .radioFlush :: rest → step s = .next { s with rxq := [], agenda := rest })
end

