-- ==== Sys2Proof/Laws/State.lean ====
section
/-! SUPPORT. One lemma per field per named update of the state, true by rfl, so that no later proof unfolds a record
update. -/

namespace Sys2Proof.Machine

/-! `setCmdResult`: it changes cmdResult and nothing else. -/

@[simp] theorem setCmdResult_en (r : CmdResult) (s : State) : (setCmdResult r s).en = s.en := rfl
@[simp] theorem setCmdResult_keyValid (r : CmdResult) (s : State) : (setCmdResult r s).keyValid = s.keyValid := rfl
@[simp] theorem setCmdResult_idValid (r : CmdResult) (s : State) : (setCmdResult r s).idValid = s.idValid := rfl
@[simp] theorem setCmdResult_resValid (r : CmdResult) (s : State) : (setCmdResult r s).resValid = s.resValid := rfl
@[simp] theorem setCmdResult_phase (r : CmdResult) (s : State) : (setCmdResult r s).phase = s.phase := rfl
@[simp] theorem setCmdResult_events (r : CmdResult) (s : State) : (setCmdResult r s).events = s.events := rfl
@[simp] theorem setCmdResult_irqEn (r : CmdResult) (s : State) : (setCmdResult r s).irqEn = s.irqEn := rfl
@[simp] theorem setCmdResult_frameResult (r : CmdResult) (s : State) : (setCmdResult r s).frameResult = s.frameResult := rfl
@[simp] theorem setCmdResult_cmdResult (r : CmdResult) (s : State) : (setCmdResult r s).cmdResult = r := rfl
@[simp] theorem setCmdResult_meterId (r : CmdResult) (s : State) : (setCmdResult r s).meterId = s.meterId := rfl
@[simp] theorem setCmdResult_frameLen (r : CmdResult) (s : State) : (setCmdResult r s).frameLen = s.frameLen := rfl
@[simp] theorem setCmdResult_calcCrc (r : CmdResult) (s : State) : (setCmdResult r s).calcCrc = s.calcCrc := rfl
@[simp] theorem setCmdResult_readCrc (r : CmdResult) (s : State) : (setCmdResult r s).readCrc = s.readCrc := rfl
@[simp] theorem setCmdResult_ks (r : CmdResult) (s : State) : (setCmdResult r s).ks = s.ks := rfl
@[simp] theorem setCmdResult_k (r : CmdResult) (s : State) : (setCmdResult r s).k = s.k := rfl
@[simp] theorem setCmdResult_rk (r : CmdResult) (s : State) : (setCmdResult r s).rk = s.rk := rfl
@[simp] theorem setCmdResult_ivr (r : CmdResult) (s : State) : (setCmdResult r s).ivr = s.ivr := rfl
@[simp] theorem setCmdResult_totalRaw (r : CmdResult) (s : State) : (setCmdResult r s).totalRaw = s.totalRaw := rfl
@[simp] theorem setCmdResult_monthRaw (r : CmdResult) (s : State) : (setCmdResult r s).monthRaw = s.monthRaw := rfl
@[simp] theorem setCmdResult_flowTemp (r : CmdResult) (s : State) : (setCmdResult r s).flowTemp = s.flowTemp := rfl
@[simp] theorem setCmdResult_ambientTemp (r : CmdResult) (s : State) : (setCmdResult r s).ambientTemp = s.ambientTemp := rfl
@[simp] theorem setCmdResult_readingCi (r : CmdResult) (s : State) : (setCmdResult r s).readingCi = s.readingCi := rfl
@[simp] theorem setCmdResult_framesRx (r : CmdResult) (s : State) : (setCmdResult r s).framesRx = s.framesRx := rfl
@[simp] theorem setCmdResult_crcErrs (r : CmdResult) (s : State) : (setCmdResult r s).crcErrs = s.crcErrs := rfl
@[simp] theorem setCmdResult_mem (r : CmdResult) (s : State) : (setCmdResult r s).mem = s.mem := rfl
@[simp] theorem setCmdResult_preByte0 (r : CmdResult) (s : State) : (setCmdResult r s).preByte0 = s.preByte0 := rfl
@[simp] theorem setCmdResult_bodyCnt (r : CmdResult) (s : State) : (setCmdResult r s).bodyCnt = s.bodyCnt := rfl
@[simp] theorem setCmdResult_ctr (r : CmdResult) (s : State) : (setCmdResult r s).ctr = s.ctr := rfl
@[simp] theorem setCmdResult_rearmEvents (r : CmdResult) (s : State) : (setCmdResult r s).rearmEvents = s.rearmEvents := rfl
@[simp] theorem setCmdResult_syncN (r : CmdResult) (s : State) : (setCmdResult r s).syncN = s.syncN := rfl
@[simp] theorem setCmdResult_rxq (r : CmdResult) (s : State) : (setCmdResult r s).rxq = s.rxq := rfl
@[simp] theorem setCmdResult_busReads (r : CmdResult) (s : State) : (setCmdResult r s).busReads = s.busReads := rfl
@[simp] theorem setCmdResult_draws (r : CmdResult) (s : State) : (setCmdResult r s).draws = s.draws := rfl
@[simp] theorem setCmdResult_agenda (r : CmdResult) (s : State) : (setCmdResult r s).agenda = s.agenda := rfl

/-! `setPhase`: it changes phase and nothing else. -/

@[simp] theorem setPhase_en (p : Phase) (s : State) : (setPhase p s).en = s.en := rfl
@[simp] theorem setPhase_keyValid (p : Phase) (s : State) : (setPhase p s).keyValid = s.keyValid := rfl
@[simp] theorem setPhase_idValid (p : Phase) (s : State) : (setPhase p s).idValid = s.idValid := rfl
@[simp] theorem setPhase_resValid (p : Phase) (s : State) : (setPhase p s).resValid = s.resValid := rfl
@[simp] theorem setPhase_phase (p : Phase) (s : State) : (setPhase p s).phase = p := rfl
@[simp] theorem setPhase_events (p : Phase) (s : State) : (setPhase p s).events = s.events := rfl
@[simp] theorem setPhase_irqEn (p : Phase) (s : State) : (setPhase p s).irqEn = s.irqEn := rfl
@[simp] theorem setPhase_frameResult (p : Phase) (s : State) : (setPhase p s).frameResult = s.frameResult := rfl
@[simp] theorem setPhase_cmdResult (p : Phase) (s : State) : (setPhase p s).cmdResult = s.cmdResult := rfl
@[simp] theorem setPhase_meterId (p : Phase) (s : State) : (setPhase p s).meterId = s.meterId := rfl
@[simp] theorem setPhase_frameLen (p : Phase) (s : State) : (setPhase p s).frameLen = s.frameLen := rfl
@[simp] theorem setPhase_calcCrc (p : Phase) (s : State) : (setPhase p s).calcCrc = s.calcCrc := rfl
@[simp] theorem setPhase_readCrc (p : Phase) (s : State) : (setPhase p s).readCrc = s.readCrc := rfl
@[simp] theorem setPhase_ks (p : Phase) (s : State) : (setPhase p s).ks = s.ks := rfl
@[simp] theorem setPhase_k (p : Phase) (s : State) : (setPhase p s).k = s.k := rfl
@[simp] theorem setPhase_rk (p : Phase) (s : State) : (setPhase p s).rk = s.rk := rfl
@[simp] theorem setPhase_ivr (p : Phase) (s : State) : (setPhase p s).ivr = s.ivr := rfl
@[simp] theorem setPhase_totalRaw (p : Phase) (s : State) : (setPhase p s).totalRaw = s.totalRaw := rfl
@[simp] theorem setPhase_monthRaw (p : Phase) (s : State) : (setPhase p s).monthRaw = s.monthRaw := rfl
@[simp] theorem setPhase_flowTemp (p : Phase) (s : State) : (setPhase p s).flowTemp = s.flowTemp := rfl
@[simp] theorem setPhase_ambientTemp (p : Phase) (s : State) : (setPhase p s).ambientTemp = s.ambientTemp := rfl
@[simp] theorem setPhase_readingCi (p : Phase) (s : State) : (setPhase p s).readingCi = s.readingCi := rfl
@[simp] theorem setPhase_framesRx (p : Phase) (s : State) : (setPhase p s).framesRx = s.framesRx := rfl
@[simp] theorem setPhase_crcErrs (p : Phase) (s : State) : (setPhase p s).crcErrs = s.crcErrs := rfl
@[simp] theorem setPhase_mem (p : Phase) (s : State) : (setPhase p s).mem = s.mem := rfl
@[simp] theorem setPhase_preByte0 (p : Phase) (s : State) : (setPhase p s).preByte0 = s.preByte0 := rfl
@[simp] theorem setPhase_bodyCnt (p : Phase) (s : State) : (setPhase p s).bodyCnt = s.bodyCnt := rfl
@[simp] theorem setPhase_ctr (p : Phase) (s : State) : (setPhase p s).ctr = s.ctr := rfl
@[simp] theorem setPhase_rearmEvents (p : Phase) (s : State) : (setPhase p s).rearmEvents = s.rearmEvents := rfl
@[simp] theorem setPhase_syncN (p : Phase) (s : State) : (setPhase p s).syncN = s.syncN := rfl
@[simp] theorem setPhase_rxq (p : Phase) (s : State) : (setPhase p s).rxq = s.rxq := rfl
@[simp] theorem setPhase_busReads (p : Phase) (s : State) : (setPhase p s).busReads = s.busReads := rfl
@[simp] theorem setPhase_draws (p : Phase) (s : State) : (setPhase p s).draws = s.draws := rfl
@[simp] theorem setPhase_agenda (p : Phase) (s : State) : (setPhase p s).agenda = s.agenda := rfl

/-! `setBodyCnt`: it changes bodyCnt and nothing else. -/

@[simp] theorem setBodyCnt_en (c : BitVec 6) (s : State) : (setBodyCnt c s).en = s.en := rfl
@[simp] theorem setBodyCnt_keyValid (c : BitVec 6) (s : State) : (setBodyCnt c s).keyValid = s.keyValid := rfl
@[simp] theorem setBodyCnt_idValid (c : BitVec 6) (s : State) : (setBodyCnt c s).idValid = s.idValid := rfl
@[simp] theorem setBodyCnt_resValid (c : BitVec 6) (s : State) : (setBodyCnt c s).resValid = s.resValid := rfl
@[simp] theorem setBodyCnt_phase (c : BitVec 6) (s : State) : (setBodyCnt c s).phase = s.phase := rfl
@[simp] theorem setBodyCnt_events (c : BitVec 6) (s : State) : (setBodyCnt c s).events = s.events := rfl
@[simp] theorem setBodyCnt_irqEn (c : BitVec 6) (s : State) : (setBodyCnt c s).irqEn = s.irqEn := rfl
@[simp] theorem setBodyCnt_frameResult (c : BitVec 6) (s : State) : (setBodyCnt c s).frameResult = s.frameResult := rfl
@[simp] theorem setBodyCnt_cmdResult (c : BitVec 6) (s : State) : (setBodyCnt c s).cmdResult = s.cmdResult := rfl
@[simp] theorem setBodyCnt_meterId (c : BitVec 6) (s : State) : (setBodyCnt c s).meterId = s.meterId := rfl
@[simp] theorem setBodyCnt_frameLen (c : BitVec 6) (s : State) : (setBodyCnt c s).frameLen = s.frameLen := rfl
@[simp] theorem setBodyCnt_calcCrc (c : BitVec 6) (s : State) : (setBodyCnt c s).calcCrc = s.calcCrc := rfl
@[simp] theorem setBodyCnt_readCrc (c : BitVec 6) (s : State) : (setBodyCnt c s).readCrc = s.readCrc := rfl
@[simp] theorem setBodyCnt_ks (c : BitVec 6) (s : State) : (setBodyCnt c s).ks = s.ks := rfl
@[simp] theorem setBodyCnt_k (c : BitVec 6) (s : State) : (setBodyCnt c s).k = s.k := rfl
@[simp] theorem setBodyCnt_rk (c : BitVec 6) (s : State) : (setBodyCnt c s).rk = s.rk := rfl
@[simp] theorem setBodyCnt_ivr (c : BitVec 6) (s : State) : (setBodyCnt c s).ivr = s.ivr := rfl
@[simp] theorem setBodyCnt_totalRaw (c : BitVec 6) (s : State) : (setBodyCnt c s).totalRaw = s.totalRaw := rfl
@[simp] theorem setBodyCnt_monthRaw (c : BitVec 6) (s : State) : (setBodyCnt c s).monthRaw = s.monthRaw := rfl
@[simp] theorem setBodyCnt_flowTemp (c : BitVec 6) (s : State) : (setBodyCnt c s).flowTemp = s.flowTemp := rfl
@[simp] theorem setBodyCnt_ambientTemp (c : BitVec 6) (s : State) : (setBodyCnt c s).ambientTemp = s.ambientTemp := rfl
@[simp] theorem setBodyCnt_readingCi (c : BitVec 6) (s : State) : (setBodyCnt c s).readingCi = s.readingCi := rfl
@[simp] theorem setBodyCnt_framesRx (c : BitVec 6) (s : State) : (setBodyCnt c s).framesRx = s.framesRx := rfl
@[simp] theorem setBodyCnt_crcErrs (c : BitVec 6) (s : State) : (setBodyCnt c s).crcErrs = s.crcErrs := rfl
@[simp] theorem setBodyCnt_mem (c : BitVec 6) (s : State) : (setBodyCnt c s).mem = s.mem := rfl
@[simp] theorem setBodyCnt_preByte0 (c : BitVec 6) (s : State) : (setBodyCnt c s).preByte0 = s.preByte0 := rfl
@[simp] theorem setBodyCnt_bodyCnt (c : BitVec 6) (s : State) : (setBodyCnt c s).bodyCnt = c := rfl
@[simp] theorem setBodyCnt_ctr (c : BitVec 6) (s : State) : (setBodyCnt c s).ctr = s.ctr := rfl
@[simp] theorem setBodyCnt_rearmEvents (c : BitVec 6) (s : State) : (setBodyCnt c s).rearmEvents = s.rearmEvents := rfl
@[simp] theorem setBodyCnt_syncN (c : BitVec 6) (s : State) : (setBodyCnt c s).syncN = s.syncN := rfl
@[simp] theorem setBodyCnt_rxq (c : BitVec 6) (s : State) : (setBodyCnt c s).rxq = s.rxq := rfl
@[simp] theorem setBodyCnt_busReads (c : BitVec 6) (s : State) : (setBodyCnt c s).busReads = s.busReads := rfl
@[simp] theorem setBodyCnt_draws (c : BitVec 6) (s : State) : (setBodyCnt c s).draws = s.draws := rfl
@[simp] theorem setBodyCnt_agenda (c : BitVec 6) (s : State) : (setBodyCnt c s).agenda = s.agenda := rfl

/-! `setCmdErr`: it changes events and nothing else. -/

@[simp] theorem setCmdErr_en (s : State) : (setCmdErr s).en = s.en := rfl
@[simp] theorem setCmdErr_keyValid (s : State) : (setCmdErr s).keyValid = s.keyValid := rfl
@[simp] theorem setCmdErr_idValid (s : State) : (setCmdErr s).idValid = s.idValid := rfl
@[simp] theorem setCmdErr_resValid (s : State) : (setCmdErr s).resValid = s.resValid := rfl
@[simp] theorem setCmdErr_phase (s : State) : (setCmdErr s).phase = s.phase := rfl
@[simp] theorem setCmdErr_events (s : State) : (setCmdErr s).events = { s.events with cmdErr := true } := rfl
@[simp] theorem setCmdErr_irqEn (s : State) : (setCmdErr s).irqEn = s.irqEn := rfl
@[simp] theorem setCmdErr_frameResult (s : State) : (setCmdErr s).frameResult = s.frameResult := rfl
@[simp] theorem setCmdErr_cmdResult (s : State) : (setCmdErr s).cmdResult = s.cmdResult := rfl
@[simp] theorem setCmdErr_meterId (s : State) : (setCmdErr s).meterId = s.meterId := rfl
@[simp] theorem setCmdErr_frameLen (s : State) : (setCmdErr s).frameLen = s.frameLen := rfl
@[simp] theorem setCmdErr_calcCrc (s : State) : (setCmdErr s).calcCrc = s.calcCrc := rfl
@[simp] theorem setCmdErr_readCrc (s : State) : (setCmdErr s).readCrc = s.readCrc := rfl
@[simp] theorem setCmdErr_ks (s : State) : (setCmdErr s).ks = s.ks := rfl
@[simp] theorem setCmdErr_k (s : State) : (setCmdErr s).k = s.k := rfl
@[simp] theorem setCmdErr_rk (s : State) : (setCmdErr s).rk = s.rk := rfl
@[simp] theorem setCmdErr_ivr (s : State) : (setCmdErr s).ivr = s.ivr := rfl
@[simp] theorem setCmdErr_totalRaw (s : State) : (setCmdErr s).totalRaw = s.totalRaw := rfl
@[simp] theorem setCmdErr_monthRaw (s : State) : (setCmdErr s).monthRaw = s.monthRaw := rfl
@[simp] theorem setCmdErr_flowTemp (s : State) : (setCmdErr s).flowTemp = s.flowTemp := rfl
@[simp] theorem setCmdErr_ambientTemp (s : State) : (setCmdErr s).ambientTemp = s.ambientTemp := rfl
@[simp] theorem setCmdErr_readingCi (s : State) : (setCmdErr s).readingCi = s.readingCi := rfl
@[simp] theorem setCmdErr_framesRx (s : State) : (setCmdErr s).framesRx = s.framesRx := rfl
@[simp] theorem setCmdErr_crcErrs (s : State) : (setCmdErr s).crcErrs = s.crcErrs := rfl
@[simp] theorem setCmdErr_mem (s : State) : (setCmdErr s).mem = s.mem := rfl
@[simp] theorem setCmdErr_preByte0 (s : State) : (setCmdErr s).preByte0 = s.preByte0 := rfl
@[simp] theorem setCmdErr_bodyCnt (s : State) : (setCmdErr s).bodyCnt = s.bodyCnt := rfl
@[simp] theorem setCmdErr_ctr (s : State) : (setCmdErr s).ctr = s.ctr := rfl
@[simp] theorem setCmdErr_rearmEvents (s : State) : (setCmdErr s).rearmEvents = s.rearmEvents := rfl
@[simp] theorem setCmdErr_syncN (s : State) : (setCmdErr s).syncN = s.syncN := rfl
@[simp] theorem setCmdErr_rxq (s : State) : (setCmdErr s).rxq = s.rxq := rfl
@[simp] theorem setCmdErr_busReads (s : State) : (setCmdErr s).busReads = s.busReads := rfl
@[simp] theorem setCmdErr_draws (s : State) : (setCmdErr s).draws = s.draws := rfl
@[simp] theorem setCmdErr_agenda (s : State) : (setCmdErr s).agenda = s.agenda := rfl

/-! `setAccErr`: it changes events and nothing else. -/

@[simp] theorem setAccErr_en (s : State) : (setAccErr s).en = s.en := rfl
@[simp] theorem setAccErr_keyValid (s : State) : (setAccErr s).keyValid = s.keyValid := rfl
@[simp] theorem setAccErr_idValid (s : State) : (setAccErr s).idValid = s.idValid := rfl
@[simp] theorem setAccErr_resValid (s : State) : (setAccErr s).resValid = s.resValid := rfl
@[simp] theorem setAccErr_phase (s : State) : (setAccErr s).phase = s.phase := rfl
@[simp] theorem setAccErr_events (s : State) : (setAccErr s).events = { s.events with accErr := true } := rfl
@[simp] theorem setAccErr_irqEn (s : State) : (setAccErr s).irqEn = s.irqEn := rfl
@[simp] theorem setAccErr_frameResult (s : State) : (setAccErr s).frameResult = s.frameResult := rfl
@[simp] theorem setAccErr_cmdResult (s : State) : (setAccErr s).cmdResult = s.cmdResult := rfl
@[simp] theorem setAccErr_meterId (s : State) : (setAccErr s).meterId = s.meterId := rfl
@[simp] theorem setAccErr_frameLen (s : State) : (setAccErr s).frameLen = s.frameLen := rfl
@[simp] theorem setAccErr_calcCrc (s : State) : (setAccErr s).calcCrc = s.calcCrc := rfl
@[simp] theorem setAccErr_readCrc (s : State) : (setAccErr s).readCrc = s.readCrc := rfl
@[simp] theorem setAccErr_ks (s : State) : (setAccErr s).ks = s.ks := rfl
@[simp] theorem setAccErr_k (s : State) : (setAccErr s).k = s.k := rfl
@[simp] theorem setAccErr_rk (s : State) : (setAccErr s).rk = s.rk := rfl
@[simp] theorem setAccErr_ivr (s : State) : (setAccErr s).ivr = s.ivr := rfl
@[simp] theorem setAccErr_totalRaw (s : State) : (setAccErr s).totalRaw = s.totalRaw := rfl
@[simp] theorem setAccErr_monthRaw (s : State) : (setAccErr s).monthRaw = s.monthRaw := rfl
@[simp] theorem setAccErr_flowTemp (s : State) : (setAccErr s).flowTemp = s.flowTemp := rfl
@[simp] theorem setAccErr_ambientTemp (s : State) : (setAccErr s).ambientTemp = s.ambientTemp := rfl
@[simp] theorem setAccErr_readingCi (s : State) : (setAccErr s).readingCi = s.readingCi := rfl
@[simp] theorem setAccErr_framesRx (s : State) : (setAccErr s).framesRx = s.framesRx := rfl
@[simp] theorem setAccErr_crcErrs (s : State) : (setAccErr s).crcErrs = s.crcErrs := rfl
@[simp] theorem setAccErr_mem (s : State) : (setAccErr s).mem = s.mem := rfl
@[simp] theorem setAccErr_preByte0 (s : State) : (setAccErr s).preByte0 = s.preByte0 := rfl
@[simp] theorem setAccErr_bodyCnt (s : State) : (setAccErr s).bodyCnt = s.bodyCnt := rfl
@[simp] theorem setAccErr_ctr (s : State) : (setAccErr s).ctr = s.ctr := rfl
@[simp] theorem setAccErr_rearmEvents (s : State) : (setAccErr s).rearmEvents = s.rearmEvents := rfl
@[simp] theorem setAccErr_syncN (s : State) : (setAccErr s).syncN = s.syncN := rfl
@[simp] theorem setAccErr_rxq (s : State) : (setAccErr s).rxq = s.rxq := rfl
@[simp] theorem setAccErr_busReads (s : State) : (setAccErr s).busReads = s.busReads := rfl
@[simp] theorem setAccErr_draws (s : State) : (setAccErr s).draws = s.draws := rfl
@[simp] theorem setAccErr_agenda (s : State) : (setAccErr s).agenda = s.agenda := rfl

/-! `ackEvents`: it changes events and nothing else. -/

@[simp] theorem ackEvents_en (v : Word) (s : State) : (ackEvents v s).en = s.en := rfl
@[simp] theorem ackEvents_keyValid (v : Word) (s : State) : (ackEvents v s).keyValid = s.keyValid := rfl
@[simp] theorem ackEvents_idValid (v : Word) (s : State) : (ackEvents v s).idValid = s.idValid := rfl
@[simp] theorem ackEvents_resValid (v : Word) (s : State) : (ackEvents v s).resValid = s.resValid := rfl
@[simp] theorem ackEvents_phase (v : Word) (s : State) : (ackEvents v s).phase = s.phase := rfl
@[simp] theorem ackEvents_events (v : Word) (s : State) : (ackEvents v s).events = EventBits.w1c s.events v := rfl
@[simp] theorem ackEvents_irqEn (v : Word) (s : State) : (ackEvents v s).irqEn = s.irqEn := rfl
@[simp] theorem ackEvents_frameResult (v : Word) (s : State) : (ackEvents v s).frameResult = s.frameResult := rfl
@[simp] theorem ackEvents_cmdResult (v : Word) (s : State) : (ackEvents v s).cmdResult = s.cmdResult := rfl
@[simp] theorem ackEvents_meterId (v : Word) (s : State) : (ackEvents v s).meterId = s.meterId := rfl
@[simp] theorem ackEvents_frameLen (v : Word) (s : State) : (ackEvents v s).frameLen = s.frameLen := rfl
@[simp] theorem ackEvents_calcCrc (v : Word) (s : State) : (ackEvents v s).calcCrc = s.calcCrc := rfl
@[simp] theorem ackEvents_readCrc (v : Word) (s : State) : (ackEvents v s).readCrc = s.readCrc := rfl
@[simp] theorem ackEvents_ks (v : Word) (s : State) : (ackEvents v s).ks = s.ks := rfl
@[simp] theorem ackEvents_k (v : Word) (s : State) : (ackEvents v s).k = s.k := rfl
@[simp] theorem ackEvents_rk (v : Word) (s : State) : (ackEvents v s).rk = s.rk := rfl
@[simp] theorem ackEvents_ivr (v : Word) (s : State) : (ackEvents v s).ivr = s.ivr := rfl
@[simp] theorem ackEvents_totalRaw (v : Word) (s : State) : (ackEvents v s).totalRaw = s.totalRaw := rfl
@[simp] theorem ackEvents_monthRaw (v : Word) (s : State) : (ackEvents v s).monthRaw = s.monthRaw := rfl
@[simp] theorem ackEvents_flowTemp (v : Word) (s : State) : (ackEvents v s).flowTemp = s.flowTemp := rfl
@[simp] theorem ackEvents_ambientTemp (v : Word) (s : State) : (ackEvents v s).ambientTemp = s.ambientTemp := rfl
@[simp] theorem ackEvents_readingCi (v : Word) (s : State) : (ackEvents v s).readingCi = s.readingCi := rfl
@[simp] theorem ackEvents_framesRx (v : Word) (s : State) : (ackEvents v s).framesRx = s.framesRx := rfl
@[simp] theorem ackEvents_crcErrs (v : Word) (s : State) : (ackEvents v s).crcErrs = s.crcErrs := rfl
@[simp] theorem ackEvents_mem (v : Word) (s : State) : (ackEvents v s).mem = s.mem := rfl
@[simp] theorem ackEvents_preByte0 (v : Word) (s : State) : (ackEvents v s).preByte0 = s.preByte0 := rfl
@[simp] theorem ackEvents_bodyCnt (v : Word) (s : State) : (ackEvents v s).bodyCnt = s.bodyCnt := rfl
@[simp] theorem ackEvents_ctr (v : Word) (s : State) : (ackEvents v s).ctr = s.ctr := rfl
@[simp] theorem ackEvents_rearmEvents (v : Word) (s : State) : (ackEvents v s).rearmEvents = s.rearmEvents := rfl
@[simp] theorem ackEvents_syncN (v : Word) (s : State) : (ackEvents v s).syncN = s.syncN := rfl
@[simp] theorem ackEvents_rxq (v : Word) (s : State) : (ackEvents v s).rxq = s.rxq := rfl
@[simp] theorem ackEvents_busReads (v : Word) (s : State) : (ackEvents v s).busReads = s.busReads := rfl
@[simp] theorem ackEvents_draws (v : Word) (s : State) : (ackEvents v s).draws = s.draws := rfl
@[simp] theorem ackEvents_agenda (v : Word) (s : State) : (ackEvents v s).agenda = s.agenda := rfl

/-! `raiseFrame`: it changes frameResult, events and nothing else. -/

@[simp] theorem raiseFrame_en (r : FrameResult) (s : State) : (raiseFrame r s).en = s.en := rfl
@[simp] theorem raiseFrame_keyValid (r : FrameResult) (s : State) : (raiseFrame r s).keyValid = s.keyValid := rfl
@[simp] theorem raiseFrame_idValid (r : FrameResult) (s : State) : (raiseFrame r s).idValid = s.idValid := rfl
@[simp] theorem raiseFrame_resValid (r : FrameResult) (s : State) : (raiseFrame r s).resValid = s.resValid := rfl
@[simp] theorem raiseFrame_phase (r : FrameResult) (s : State) : (raiseFrame r s).phase = s.phase := rfl
@[simp] theorem raiseFrame_events (r : FrameResult) (s : State) : (raiseFrame r s).events = frameEvents r s.events := rfl
@[simp] theorem raiseFrame_irqEn (r : FrameResult) (s : State) : (raiseFrame r s).irqEn = s.irqEn := rfl
@[simp] theorem raiseFrame_frameResult (r : FrameResult) (s : State) : (raiseFrame r s).frameResult = r := rfl
@[simp] theorem raiseFrame_cmdResult (r : FrameResult) (s : State) : (raiseFrame r s).cmdResult = s.cmdResult := rfl
@[simp] theorem raiseFrame_meterId (r : FrameResult) (s : State) : (raiseFrame r s).meterId = s.meterId := rfl
@[simp] theorem raiseFrame_frameLen (r : FrameResult) (s : State) : (raiseFrame r s).frameLen = s.frameLen := rfl
@[simp] theorem raiseFrame_calcCrc (r : FrameResult) (s : State) : (raiseFrame r s).calcCrc = s.calcCrc := rfl
@[simp] theorem raiseFrame_readCrc (r : FrameResult) (s : State) : (raiseFrame r s).readCrc = s.readCrc := rfl
@[simp] theorem raiseFrame_ks (r : FrameResult) (s : State) : (raiseFrame r s).ks = s.ks := rfl
@[simp] theorem raiseFrame_k (r : FrameResult) (s : State) : (raiseFrame r s).k = s.k := rfl
@[simp] theorem raiseFrame_rk (r : FrameResult) (s : State) : (raiseFrame r s).rk = s.rk := rfl
@[simp] theorem raiseFrame_ivr (r : FrameResult) (s : State) : (raiseFrame r s).ivr = s.ivr := rfl
@[simp] theorem raiseFrame_totalRaw (r : FrameResult) (s : State) : (raiseFrame r s).totalRaw = s.totalRaw := rfl
@[simp] theorem raiseFrame_monthRaw (r : FrameResult) (s : State) : (raiseFrame r s).monthRaw = s.monthRaw := rfl
@[simp] theorem raiseFrame_flowTemp (r : FrameResult) (s : State) : (raiseFrame r s).flowTemp = s.flowTemp := rfl
@[simp] theorem raiseFrame_ambientTemp (r : FrameResult) (s : State) : (raiseFrame r s).ambientTemp = s.ambientTemp := rfl
@[simp] theorem raiseFrame_readingCi (r : FrameResult) (s : State) : (raiseFrame r s).readingCi = s.readingCi := rfl
@[simp] theorem raiseFrame_framesRx (r : FrameResult) (s : State) : (raiseFrame r s).framesRx = s.framesRx := rfl
@[simp] theorem raiseFrame_crcErrs (r : FrameResult) (s : State) : (raiseFrame r s).crcErrs = s.crcErrs := rfl
@[simp] theorem raiseFrame_mem (r : FrameResult) (s : State) : (raiseFrame r s).mem = s.mem := rfl
@[simp] theorem raiseFrame_preByte0 (r : FrameResult) (s : State) : (raiseFrame r s).preByte0 = s.preByte0 := rfl
@[simp] theorem raiseFrame_bodyCnt (r : FrameResult) (s : State) : (raiseFrame r s).bodyCnt = s.bodyCnt := rfl
@[simp] theorem raiseFrame_ctr (r : FrameResult) (s : State) : (raiseFrame r s).ctr = s.ctr := rfl
@[simp] theorem raiseFrame_rearmEvents (r : FrameResult) (s : State) : (raiseFrame r s).rearmEvents = s.rearmEvents := rfl
@[simp] theorem raiseFrame_syncN (r : FrameResult) (s : State) : (raiseFrame r s).syncN = s.syncN := rfl
@[simp] theorem raiseFrame_rxq (r : FrameResult) (s : State) : (raiseFrame r s).rxq = s.rxq := rfl
@[simp] theorem raiseFrame_busReads (r : FrameResult) (s : State) : (raiseFrame r s).busReads = s.busReads := rfl
@[simp] theorem raiseFrame_draws (r : FrameResult) (s : State) : (raiseFrame r s).draws = s.draws := rfl
@[simp] theorem raiseFrame_agenda (r : FrameResult) (s : State) : (raiseFrame r s).agenda = s.agenda := rfl

/-! `emitRearm`: it changes rearmEvents and nothing else. -/

@[simp] theorem emitRearm_en (s : State) : (emitRearm s).en = s.en := rfl
@[simp] theorem emitRearm_keyValid (s : State) : (emitRearm s).keyValid = s.keyValid := rfl
@[simp] theorem emitRearm_idValid (s : State) : (emitRearm s).idValid = s.idValid := rfl
@[simp] theorem emitRearm_resValid (s : State) : (emitRearm s).resValid = s.resValid := rfl
@[simp] theorem emitRearm_phase (s : State) : (emitRearm s).phase = s.phase := rfl
@[simp] theorem emitRearm_events (s : State) : (emitRearm s).events = s.events := rfl
@[simp] theorem emitRearm_irqEn (s : State) : (emitRearm s).irqEn = s.irqEn := rfl
@[simp] theorem emitRearm_frameResult (s : State) : (emitRearm s).frameResult = s.frameResult := rfl
@[simp] theorem emitRearm_cmdResult (s : State) : (emitRearm s).cmdResult = s.cmdResult := rfl
@[simp] theorem emitRearm_meterId (s : State) : (emitRearm s).meterId = s.meterId := rfl
@[simp] theorem emitRearm_frameLen (s : State) : (emitRearm s).frameLen = s.frameLen := rfl
@[simp] theorem emitRearm_calcCrc (s : State) : (emitRearm s).calcCrc = s.calcCrc := rfl
@[simp] theorem emitRearm_readCrc (s : State) : (emitRearm s).readCrc = s.readCrc := rfl
@[simp] theorem emitRearm_ks (s : State) : (emitRearm s).ks = s.ks := rfl
@[simp] theorem emitRearm_k (s : State) : (emitRearm s).k = s.k := rfl
@[simp] theorem emitRearm_rk (s : State) : (emitRearm s).rk = s.rk := rfl
@[simp] theorem emitRearm_ivr (s : State) : (emitRearm s).ivr = s.ivr := rfl
@[simp] theorem emitRearm_totalRaw (s : State) : (emitRearm s).totalRaw = s.totalRaw := rfl
@[simp] theorem emitRearm_monthRaw (s : State) : (emitRearm s).monthRaw = s.monthRaw := rfl
@[simp] theorem emitRearm_flowTemp (s : State) : (emitRearm s).flowTemp = s.flowTemp := rfl
@[simp] theorem emitRearm_ambientTemp (s : State) : (emitRearm s).ambientTemp = s.ambientTemp := rfl
@[simp] theorem emitRearm_readingCi (s : State) : (emitRearm s).readingCi = s.readingCi := rfl
@[simp] theorem emitRearm_framesRx (s : State) : (emitRearm s).framesRx = s.framesRx := rfl
@[simp] theorem emitRearm_crcErrs (s : State) : (emitRearm s).crcErrs = s.crcErrs := rfl
@[simp] theorem emitRearm_mem (s : State) : (emitRearm s).mem = s.mem := rfl
@[simp] theorem emitRearm_preByte0 (s : State) : (emitRearm s).preByte0 = s.preByte0 := rfl
@[simp] theorem emitRearm_bodyCnt (s : State) : (emitRearm s).bodyCnt = s.bodyCnt := rfl
@[simp] theorem emitRearm_ctr (s : State) : (emitRearm s).ctr = s.ctr := rfl
@[simp] theorem emitRearm_rearmEvents (s : State) : (emitRearm s).rearmEvents = s.rearmEvents ++ [.rearm] := rfl
@[simp] theorem emitRearm_syncN (s : State) : (emitRearm s).syncN = s.syncN := rfl
@[simp] theorem emitRearm_rxq (s : State) : (emitRearm s).rxq = s.rxq := rfl
@[simp] theorem emitRearm_busReads (s : State) : (emitRearm s).busReads = s.busReads := rfl
@[simp] theorem emitRearm_draws (s : State) : (emitRearm s).draws = s.draws := rfl
@[simp] theorem emitRearm_agenda (s : State) : (emitRearm s).agenda = s.agenda := rfl

/-! `dropRx`: it changes rxq and nothing else. -/

@[simp] theorem dropRx_en (s : State) : (dropRx s).en = s.en := rfl
@[simp] theorem dropRx_keyValid (s : State) : (dropRx s).keyValid = s.keyValid := rfl
@[simp] theorem dropRx_idValid (s : State) : (dropRx s).idValid = s.idValid := rfl
@[simp] theorem dropRx_resValid (s : State) : (dropRx s).resValid = s.resValid := rfl
@[simp] theorem dropRx_phase (s : State) : (dropRx s).phase = s.phase := rfl
@[simp] theorem dropRx_events (s : State) : (dropRx s).events = s.events := rfl
@[simp] theorem dropRx_irqEn (s : State) : (dropRx s).irqEn = s.irqEn := rfl
@[simp] theorem dropRx_frameResult (s : State) : (dropRx s).frameResult = s.frameResult := rfl
@[simp] theorem dropRx_cmdResult (s : State) : (dropRx s).cmdResult = s.cmdResult := rfl
@[simp] theorem dropRx_meterId (s : State) : (dropRx s).meterId = s.meterId := rfl
@[simp] theorem dropRx_frameLen (s : State) : (dropRx s).frameLen = s.frameLen := rfl
@[simp] theorem dropRx_calcCrc (s : State) : (dropRx s).calcCrc = s.calcCrc := rfl
@[simp] theorem dropRx_readCrc (s : State) : (dropRx s).readCrc = s.readCrc := rfl
@[simp] theorem dropRx_ks (s : State) : (dropRx s).ks = s.ks := rfl
@[simp] theorem dropRx_k (s : State) : (dropRx s).k = s.k := rfl
@[simp] theorem dropRx_rk (s : State) : (dropRx s).rk = s.rk := rfl
@[simp] theorem dropRx_ivr (s : State) : (dropRx s).ivr = s.ivr := rfl
@[simp] theorem dropRx_totalRaw (s : State) : (dropRx s).totalRaw = s.totalRaw := rfl
@[simp] theorem dropRx_monthRaw (s : State) : (dropRx s).monthRaw = s.monthRaw := rfl
@[simp] theorem dropRx_flowTemp (s : State) : (dropRx s).flowTemp = s.flowTemp := rfl
@[simp] theorem dropRx_ambientTemp (s : State) : (dropRx s).ambientTemp = s.ambientTemp := rfl
@[simp] theorem dropRx_readingCi (s : State) : (dropRx s).readingCi = s.readingCi := rfl
@[simp] theorem dropRx_framesRx (s : State) : (dropRx s).framesRx = s.framesRx := rfl
@[simp] theorem dropRx_crcErrs (s : State) : (dropRx s).crcErrs = s.crcErrs := rfl
@[simp] theorem dropRx_mem (s : State) : (dropRx s).mem = s.mem := rfl
@[simp] theorem dropRx_preByte0 (s : State) : (dropRx s).preByte0 = s.preByte0 := rfl
@[simp] theorem dropRx_bodyCnt (s : State) : (dropRx s).bodyCnt = s.bodyCnt := rfl
@[simp] theorem dropRx_ctr (s : State) : (dropRx s).ctr = s.ctr := rfl
@[simp] theorem dropRx_rearmEvents (s : State) : (dropRx s).rearmEvents = s.rearmEvents := rfl
@[simp] theorem dropRx_syncN (s : State) : (dropRx s).syncN = s.syncN := rfl
@[simp] theorem dropRx_rxq (s : State) : (dropRx s).rxq = s.rxq.tail := rfl
@[simp] theorem dropRx_busReads (s : State) : (dropRx s).busReads = s.busReads := rfl
@[simp] theorem dropRx_draws (s : State) : (dropRx s).draws = s.draws := rfl
@[simp] theorem dropRx_agenda (s : State) : (dropRx s).agenda = s.agenda := rfl

/-! `writeFrame`: it changes mem and nothing else. -/

@[simp] theorem writeFrame_en (i : Nat) (bs : List Byte) (s : State) : (writeFrame i bs s).en = s.en := rfl
@[simp] theorem writeFrame_keyValid (i : Nat) (bs : List Byte) (s : State) : (writeFrame i bs s).keyValid = s.keyValid := rfl
@[simp] theorem writeFrame_idValid (i : Nat) (bs : List Byte) (s : State) : (writeFrame i bs s).idValid = s.idValid := rfl
@[simp] theorem writeFrame_resValid (i : Nat) (bs : List Byte) (s : State) : (writeFrame i bs s).resValid = s.resValid := rfl
@[simp] theorem writeFrame_phase (i : Nat) (bs : List Byte) (s : State) : (writeFrame i bs s).phase = s.phase := rfl
@[simp] theorem writeFrame_events (i : Nat) (bs : List Byte) (s : State) : (writeFrame i bs s).events = s.events := rfl
@[simp] theorem writeFrame_irqEn (i : Nat) (bs : List Byte) (s : State) : (writeFrame i bs s).irqEn = s.irqEn := rfl
@[simp] theorem writeFrame_frameResult (i : Nat) (bs : List Byte) (s : State) : (writeFrame i bs s).frameResult = s.frameResult := rfl
@[simp] theorem writeFrame_cmdResult (i : Nat) (bs : List Byte) (s : State) : (writeFrame i bs s).cmdResult = s.cmdResult := rfl
@[simp] theorem writeFrame_meterId (i : Nat) (bs : List Byte) (s : State) : (writeFrame i bs s).meterId = s.meterId := rfl
@[simp] theorem writeFrame_frameLen (i : Nat) (bs : List Byte) (s : State) : (writeFrame i bs s).frameLen = s.frameLen := rfl
@[simp] theorem writeFrame_calcCrc (i : Nat) (bs : List Byte) (s : State) : (writeFrame i bs s).calcCrc = s.calcCrc := rfl
@[simp] theorem writeFrame_readCrc (i : Nat) (bs : List Byte) (s : State) : (writeFrame i bs s).readCrc = s.readCrc := rfl
@[simp] theorem writeFrame_ks (i : Nat) (bs : List Byte) (s : State) : (writeFrame i bs s).ks = s.ks := rfl
@[simp] theorem writeFrame_k (i : Nat) (bs : List Byte) (s : State) : (writeFrame i bs s).k = s.k := rfl
@[simp] theorem writeFrame_rk (i : Nat) (bs : List Byte) (s : State) : (writeFrame i bs s).rk = s.rk := rfl
@[simp] theorem writeFrame_ivr (i : Nat) (bs : List Byte) (s : State) : (writeFrame i bs s).ivr = s.ivr := rfl
@[simp] theorem writeFrame_totalRaw (i : Nat) (bs : List Byte) (s : State) : (writeFrame i bs s).totalRaw = s.totalRaw := rfl
@[simp] theorem writeFrame_monthRaw (i : Nat) (bs : List Byte) (s : State) : (writeFrame i bs s).monthRaw = s.monthRaw := rfl
@[simp] theorem writeFrame_flowTemp (i : Nat) (bs : List Byte) (s : State) : (writeFrame i bs s).flowTemp = s.flowTemp := rfl
@[simp] theorem writeFrame_ambientTemp (i : Nat) (bs : List Byte) (s : State) : (writeFrame i bs s).ambientTemp = s.ambientTemp := rfl
@[simp] theorem writeFrame_readingCi (i : Nat) (bs : List Byte) (s : State) : (writeFrame i bs s).readingCi = s.readingCi := rfl
@[simp] theorem writeFrame_framesRx (i : Nat) (bs : List Byte) (s : State) : (writeFrame i bs s).framesRx = s.framesRx := rfl
@[simp] theorem writeFrame_crcErrs (i : Nat) (bs : List Byte) (s : State) : (writeFrame i bs s).crcErrs = s.crcErrs := rfl
@[simp] theorem writeFrame_mem (i : Nat) (bs : List Byte) (s : State) : (writeFrame i bs s).mem = Memory.writeBytes s.mem (Config.frameBase + i) bs := rfl
@[simp] theorem writeFrame_preByte0 (i : Nat) (bs : List Byte) (s : State) : (writeFrame i bs s).preByte0 = s.preByte0 := rfl
@[simp] theorem writeFrame_bodyCnt (i : Nat) (bs : List Byte) (s : State) : (writeFrame i bs s).bodyCnt = s.bodyCnt := rfl
@[simp] theorem writeFrame_ctr (i : Nat) (bs : List Byte) (s : State) : (writeFrame i bs s).ctr = s.ctr := rfl
@[simp] theorem writeFrame_rearmEvents (i : Nat) (bs : List Byte) (s : State) : (writeFrame i bs s).rearmEvents = s.rearmEvents := rfl
@[simp] theorem writeFrame_syncN (i : Nat) (bs : List Byte) (s : State) : (writeFrame i bs s).syncN = s.syncN := rfl
@[simp] theorem writeFrame_rxq (i : Nat) (bs : List Byte) (s : State) : (writeFrame i bs s).rxq = s.rxq := rfl
@[simp] theorem writeFrame_busReads (i : Nat) (bs : List Byte) (s : State) : (writeFrame i bs s).busReads = s.busReads := rfl
@[simp] theorem writeFrame_draws (i : Nat) (bs : List Byte) (s : State) : (writeFrame i bs s).draws = s.draws := rfl
@[simp] theorem writeFrame_agenda (i : Nat) (bs : List Byte) (s : State) : (writeFrame i bs s).agenda = s.agenda := rfl

/-! `writePlain`: it changes mem and nothing else. -/

@[simp] theorem writePlain_en (i : Nat) (bs : List Byte) (s : State) : (writePlain i bs s).en = s.en := rfl
@[simp] theorem writePlain_keyValid (i : Nat) (bs : List Byte) (s : State) : (writePlain i bs s).keyValid = s.keyValid := rfl
@[simp] theorem writePlain_idValid (i : Nat) (bs : List Byte) (s : State) : (writePlain i bs s).idValid = s.idValid := rfl
@[simp] theorem writePlain_resValid (i : Nat) (bs : List Byte) (s : State) : (writePlain i bs s).resValid = s.resValid := rfl
@[simp] theorem writePlain_phase (i : Nat) (bs : List Byte) (s : State) : (writePlain i bs s).phase = s.phase := rfl
@[simp] theorem writePlain_events (i : Nat) (bs : List Byte) (s : State) : (writePlain i bs s).events = s.events := rfl
@[simp] theorem writePlain_irqEn (i : Nat) (bs : List Byte) (s : State) : (writePlain i bs s).irqEn = s.irqEn := rfl
@[simp] theorem writePlain_frameResult (i : Nat) (bs : List Byte) (s : State) : (writePlain i bs s).frameResult = s.frameResult := rfl
@[simp] theorem writePlain_cmdResult (i : Nat) (bs : List Byte) (s : State) : (writePlain i bs s).cmdResult = s.cmdResult := rfl
@[simp] theorem writePlain_meterId (i : Nat) (bs : List Byte) (s : State) : (writePlain i bs s).meterId = s.meterId := rfl
@[simp] theorem writePlain_frameLen (i : Nat) (bs : List Byte) (s : State) : (writePlain i bs s).frameLen = s.frameLen := rfl
@[simp] theorem writePlain_calcCrc (i : Nat) (bs : List Byte) (s : State) : (writePlain i bs s).calcCrc = s.calcCrc := rfl
@[simp] theorem writePlain_readCrc (i : Nat) (bs : List Byte) (s : State) : (writePlain i bs s).readCrc = s.readCrc := rfl
@[simp] theorem writePlain_ks (i : Nat) (bs : List Byte) (s : State) : (writePlain i bs s).ks = s.ks := rfl
@[simp] theorem writePlain_k (i : Nat) (bs : List Byte) (s : State) : (writePlain i bs s).k = s.k := rfl
@[simp] theorem writePlain_rk (i : Nat) (bs : List Byte) (s : State) : (writePlain i bs s).rk = s.rk := rfl
@[simp] theorem writePlain_ivr (i : Nat) (bs : List Byte) (s : State) : (writePlain i bs s).ivr = s.ivr := rfl
@[simp] theorem writePlain_totalRaw (i : Nat) (bs : List Byte) (s : State) : (writePlain i bs s).totalRaw = s.totalRaw := rfl
@[simp] theorem writePlain_monthRaw (i : Nat) (bs : List Byte) (s : State) : (writePlain i bs s).monthRaw = s.monthRaw := rfl
@[simp] theorem writePlain_flowTemp (i : Nat) (bs : List Byte) (s : State) : (writePlain i bs s).flowTemp = s.flowTemp := rfl
@[simp] theorem writePlain_ambientTemp (i : Nat) (bs : List Byte) (s : State) : (writePlain i bs s).ambientTemp = s.ambientTemp := rfl
@[simp] theorem writePlain_readingCi (i : Nat) (bs : List Byte) (s : State) : (writePlain i bs s).readingCi = s.readingCi := rfl
@[simp] theorem writePlain_framesRx (i : Nat) (bs : List Byte) (s : State) : (writePlain i bs s).framesRx = s.framesRx := rfl
@[simp] theorem writePlain_crcErrs (i : Nat) (bs : List Byte) (s : State) : (writePlain i bs s).crcErrs = s.crcErrs := rfl
@[simp] theorem writePlain_mem (i : Nat) (bs : List Byte) (s : State) : (writePlain i bs s).mem = Memory.writeBytes s.mem (Config.plainBase + i) bs := rfl
@[simp] theorem writePlain_preByte0 (i : Nat) (bs : List Byte) (s : State) : (writePlain i bs s).preByte0 = s.preByte0 := rfl
@[simp] theorem writePlain_bodyCnt (i : Nat) (bs : List Byte) (s : State) : (writePlain i bs s).bodyCnt = s.bodyCnt := rfl
@[simp] theorem writePlain_ctr (i : Nat) (bs : List Byte) (s : State) : (writePlain i bs s).ctr = s.ctr := rfl
@[simp] theorem writePlain_rearmEvents (i : Nat) (bs : List Byte) (s : State) : (writePlain i bs s).rearmEvents = s.rearmEvents := rfl
@[simp] theorem writePlain_syncN (i : Nat) (bs : List Byte) (s : State) : (writePlain i bs s).syncN = s.syncN := rfl
@[simp] theorem writePlain_rxq (i : Nat) (bs : List Byte) (s : State) : (writePlain i bs s).rxq = s.rxq := rfl
@[simp] theorem writePlain_busReads (i : Nat) (bs : List Byte) (s : State) : (writePlain i bs s).busReads = s.busReads := rfl
@[simp] theorem writePlain_draws (i : Nat) (bs : List Byte) (s : State) : (writePlain i bs s).draws = s.draws := rfl
@[simp] theorem writePlain_agenda (i : Nat) (bs : List Byte) (s : State) : (writePlain i bs s).agenda = s.agenda := rfl

/-! `setIvr`: it changes ivr and nothing else. -/

@[simp] theorem setIvr_en (iv : Block) (s : State) : (setIvr iv s).en = s.en := rfl
@[simp] theorem setIvr_keyValid (iv : Block) (s : State) : (setIvr iv s).keyValid = s.keyValid := rfl
@[simp] theorem setIvr_idValid (iv : Block) (s : State) : (setIvr iv s).idValid = s.idValid := rfl
@[simp] theorem setIvr_resValid (iv : Block) (s : State) : (setIvr iv s).resValid = s.resValid := rfl
@[simp] theorem setIvr_phase (iv : Block) (s : State) : (setIvr iv s).phase = s.phase := rfl
@[simp] theorem setIvr_events (iv : Block) (s : State) : (setIvr iv s).events = s.events := rfl
@[simp] theorem setIvr_irqEn (iv : Block) (s : State) : (setIvr iv s).irqEn = s.irqEn := rfl
@[simp] theorem setIvr_frameResult (iv : Block) (s : State) : (setIvr iv s).frameResult = s.frameResult := rfl
@[simp] theorem setIvr_cmdResult (iv : Block) (s : State) : (setIvr iv s).cmdResult = s.cmdResult := rfl
@[simp] theorem setIvr_meterId (iv : Block) (s : State) : (setIvr iv s).meterId = s.meterId := rfl
@[simp] theorem setIvr_frameLen (iv : Block) (s : State) : (setIvr iv s).frameLen = s.frameLen := rfl
@[simp] theorem setIvr_calcCrc (iv : Block) (s : State) : (setIvr iv s).calcCrc = s.calcCrc := rfl
@[simp] theorem setIvr_readCrc (iv : Block) (s : State) : (setIvr iv s).readCrc = s.readCrc := rfl
@[simp] theorem setIvr_ks (iv : Block) (s : State) : (setIvr iv s).ks = s.ks := rfl
@[simp] theorem setIvr_k (iv : Block) (s : State) : (setIvr iv s).k = s.k := rfl
@[simp] theorem setIvr_rk (iv : Block) (s : State) : (setIvr iv s).rk = s.rk := rfl
@[simp] theorem setIvr_ivr (iv : Block) (s : State) : (setIvr iv s).ivr = iv := rfl
@[simp] theorem setIvr_totalRaw (iv : Block) (s : State) : (setIvr iv s).totalRaw = s.totalRaw := rfl
@[simp] theorem setIvr_monthRaw (iv : Block) (s : State) : (setIvr iv s).monthRaw = s.monthRaw := rfl
@[simp] theorem setIvr_flowTemp (iv : Block) (s : State) : (setIvr iv s).flowTemp = s.flowTemp := rfl
@[simp] theorem setIvr_ambientTemp (iv : Block) (s : State) : (setIvr iv s).ambientTemp = s.ambientTemp := rfl
@[simp] theorem setIvr_readingCi (iv : Block) (s : State) : (setIvr iv s).readingCi = s.readingCi := rfl
@[simp] theorem setIvr_framesRx (iv : Block) (s : State) : (setIvr iv s).framesRx = s.framesRx := rfl
@[simp] theorem setIvr_crcErrs (iv : Block) (s : State) : (setIvr iv s).crcErrs = s.crcErrs := rfl
@[simp] theorem setIvr_mem (iv : Block) (s : State) : (setIvr iv s).mem = s.mem := rfl
@[simp] theorem setIvr_preByte0 (iv : Block) (s : State) : (setIvr iv s).preByte0 = s.preByte0 := rfl
@[simp] theorem setIvr_bodyCnt (iv : Block) (s : State) : (setIvr iv s).bodyCnt = s.bodyCnt := rfl
@[simp] theorem setIvr_ctr (iv : Block) (s : State) : (setIvr iv s).ctr = s.ctr := rfl
@[simp] theorem setIvr_rearmEvents (iv : Block) (s : State) : (setIvr iv s).rearmEvents = s.rearmEvents := rfl
@[simp] theorem setIvr_syncN (iv : Block) (s : State) : (setIvr iv s).syncN = s.syncN := rfl
@[simp] theorem setIvr_rxq (iv : Block) (s : State) : (setIvr iv s).rxq = s.rxq := rfl
@[simp] theorem setIvr_busReads (iv : Block) (s : State) : (setIvr iv s).busReads = s.busReads := rfl
@[simp] theorem setIvr_draws (iv : Block) (s : State) : (setIvr iv s).draws = s.draws := rfl
@[simp] theorem setIvr_agenda (iv : Block) (s : State) : (setIvr iv s).agenda = s.agenda := rfl

/-! `setCtr`: it changes ctr and nothing else. -/

@[simp] theorem setCtr_en (c : Block) (s : State) : (setCtr c s).en = s.en := rfl
@[simp] theorem setCtr_keyValid (c : Block) (s : State) : (setCtr c s).keyValid = s.keyValid := rfl
@[simp] theorem setCtr_idValid (c : Block) (s : State) : (setCtr c s).idValid = s.idValid := rfl
@[simp] theorem setCtr_resValid (c : Block) (s : State) : (setCtr c s).resValid = s.resValid := rfl
@[simp] theorem setCtr_phase (c : Block) (s : State) : (setCtr c s).phase = s.phase := rfl
@[simp] theorem setCtr_events (c : Block) (s : State) : (setCtr c s).events = s.events := rfl
@[simp] theorem setCtr_irqEn (c : Block) (s : State) : (setCtr c s).irqEn = s.irqEn := rfl
@[simp] theorem setCtr_frameResult (c : Block) (s : State) : (setCtr c s).frameResult = s.frameResult := rfl
@[simp] theorem setCtr_cmdResult (c : Block) (s : State) : (setCtr c s).cmdResult = s.cmdResult := rfl
@[simp] theorem setCtr_meterId (c : Block) (s : State) : (setCtr c s).meterId = s.meterId := rfl
@[simp] theorem setCtr_frameLen (c : Block) (s : State) : (setCtr c s).frameLen = s.frameLen := rfl
@[simp] theorem setCtr_calcCrc (c : Block) (s : State) : (setCtr c s).calcCrc = s.calcCrc := rfl
@[simp] theorem setCtr_readCrc (c : Block) (s : State) : (setCtr c s).readCrc = s.readCrc := rfl
@[simp] theorem setCtr_ks (c : Block) (s : State) : (setCtr c s).ks = s.ks := rfl
@[simp] theorem setCtr_k (c : Block) (s : State) : (setCtr c s).k = s.k := rfl
@[simp] theorem setCtr_rk (c : Block) (s : State) : (setCtr c s).rk = s.rk := rfl
@[simp] theorem setCtr_ivr (c : Block) (s : State) : (setCtr c s).ivr = s.ivr := rfl
@[simp] theorem setCtr_totalRaw (c : Block) (s : State) : (setCtr c s).totalRaw = s.totalRaw := rfl
@[simp] theorem setCtr_monthRaw (c : Block) (s : State) : (setCtr c s).monthRaw = s.monthRaw := rfl
@[simp] theorem setCtr_flowTemp (c : Block) (s : State) : (setCtr c s).flowTemp = s.flowTemp := rfl
@[simp] theorem setCtr_ambientTemp (c : Block) (s : State) : (setCtr c s).ambientTemp = s.ambientTemp := rfl
@[simp] theorem setCtr_readingCi (c : Block) (s : State) : (setCtr c s).readingCi = s.readingCi := rfl
@[simp] theorem setCtr_framesRx (c : Block) (s : State) : (setCtr c s).framesRx = s.framesRx := rfl
@[simp] theorem setCtr_crcErrs (c : Block) (s : State) : (setCtr c s).crcErrs = s.crcErrs := rfl
@[simp] theorem setCtr_mem (c : Block) (s : State) : (setCtr c s).mem = s.mem := rfl
@[simp] theorem setCtr_preByte0 (c : Block) (s : State) : (setCtr c s).preByte0 = s.preByte0 := rfl
@[simp] theorem setCtr_bodyCnt (c : Block) (s : State) : (setCtr c s).bodyCnt = s.bodyCnt := rfl
@[simp] theorem setCtr_ctr (c : Block) (s : State) : (setCtr c s).ctr = c := rfl
@[simp] theorem setCtr_rearmEvents (c : Block) (s : State) : (setCtr c s).rearmEvents = s.rearmEvents := rfl
@[simp] theorem setCtr_syncN (c : Block) (s : State) : (setCtr c s).syncN = s.syncN := rfl
@[simp] theorem setCtr_rxq (c : Block) (s : State) : (setCtr c s).rxq = s.rxq := rfl
@[simp] theorem setCtr_busReads (c : Block) (s : State) : (setCtr c s).busReads = s.busReads := rfl
@[simp] theorem setCtr_draws (c : Block) (s : State) : (setCtr c s).draws = s.draws := rfl
@[simp] theorem setCtr_agenda (c : Block) (s : State) : (setCtr c s).agenda = s.agenda := rfl

/-! `setCalcCrc`: it changes calcCrc and nothing else. -/

@[simp] theorem setCalcCrc_en (c : Half) (s : State) : (setCalcCrc c s).en = s.en := rfl
@[simp] theorem setCalcCrc_keyValid (c : Half) (s : State) : (setCalcCrc c s).keyValid = s.keyValid := rfl
@[simp] theorem setCalcCrc_idValid (c : Half) (s : State) : (setCalcCrc c s).idValid = s.idValid := rfl
@[simp] theorem setCalcCrc_resValid (c : Half) (s : State) : (setCalcCrc c s).resValid = s.resValid := rfl
@[simp] theorem setCalcCrc_phase (c : Half) (s : State) : (setCalcCrc c s).phase = s.phase := rfl
@[simp] theorem setCalcCrc_events (c : Half) (s : State) : (setCalcCrc c s).events = s.events := rfl
@[simp] theorem setCalcCrc_irqEn (c : Half) (s : State) : (setCalcCrc c s).irqEn = s.irqEn := rfl
@[simp] theorem setCalcCrc_frameResult (c : Half) (s : State) : (setCalcCrc c s).frameResult = s.frameResult := rfl
@[simp] theorem setCalcCrc_cmdResult (c : Half) (s : State) : (setCalcCrc c s).cmdResult = s.cmdResult := rfl
@[simp] theorem setCalcCrc_meterId (c : Half) (s : State) : (setCalcCrc c s).meterId = s.meterId := rfl
@[simp] theorem setCalcCrc_frameLen (c : Half) (s : State) : (setCalcCrc c s).frameLen = s.frameLen := rfl
@[simp] theorem setCalcCrc_calcCrc (c : Half) (s : State) : (setCalcCrc c s).calcCrc = c := rfl
@[simp] theorem setCalcCrc_readCrc (c : Half) (s : State) : (setCalcCrc c s).readCrc = s.readCrc := rfl
@[simp] theorem setCalcCrc_ks (c : Half) (s : State) : (setCalcCrc c s).ks = s.ks := rfl
@[simp] theorem setCalcCrc_k (c : Half) (s : State) : (setCalcCrc c s).k = s.k := rfl
@[simp] theorem setCalcCrc_rk (c : Half) (s : State) : (setCalcCrc c s).rk = s.rk := rfl
@[simp] theorem setCalcCrc_ivr (c : Half) (s : State) : (setCalcCrc c s).ivr = s.ivr := rfl
@[simp] theorem setCalcCrc_totalRaw (c : Half) (s : State) : (setCalcCrc c s).totalRaw = s.totalRaw := rfl
@[simp] theorem setCalcCrc_monthRaw (c : Half) (s : State) : (setCalcCrc c s).monthRaw = s.monthRaw := rfl
@[simp] theorem setCalcCrc_flowTemp (c : Half) (s : State) : (setCalcCrc c s).flowTemp = s.flowTemp := rfl
@[simp] theorem setCalcCrc_ambientTemp (c : Half) (s : State) : (setCalcCrc c s).ambientTemp = s.ambientTemp := rfl
@[simp] theorem setCalcCrc_readingCi (c : Half) (s : State) : (setCalcCrc c s).readingCi = s.readingCi := rfl
@[simp] theorem setCalcCrc_framesRx (c : Half) (s : State) : (setCalcCrc c s).framesRx = s.framesRx := rfl
@[simp] theorem setCalcCrc_crcErrs (c : Half) (s : State) : (setCalcCrc c s).crcErrs = s.crcErrs := rfl
@[simp] theorem setCalcCrc_mem (c : Half) (s : State) : (setCalcCrc c s).mem = s.mem := rfl
@[simp] theorem setCalcCrc_preByte0 (c : Half) (s : State) : (setCalcCrc c s).preByte0 = s.preByte0 := rfl
@[simp] theorem setCalcCrc_bodyCnt (c : Half) (s : State) : (setCalcCrc c s).bodyCnt = s.bodyCnt := rfl
@[simp] theorem setCalcCrc_ctr (c : Half) (s : State) : (setCalcCrc c s).ctr = s.ctr := rfl
@[simp] theorem setCalcCrc_rearmEvents (c : Half) (s : State) : (setCalcCrc c s).rearmEvents = s.rearmEvents := rfl
@[simp] theorem setCalcCrc_syncN (c : Half) (s : State) : (setCalcCrc c s).syncN = s.syncN := rfl
@[simp] theorem setCalcCrc_rxq (c : Half) (s : State) : (setCalcCrc c s).rxq = s.rxq := rfl
@[simp] theorem setCalcCrc_busReads (c : Half) (s : State) : (setCalcCrc c s).busReads = s.busReads := rfl
@[simp] theorem setCalcCrc_draws (c : Half) (s : State) : (setCalcCrc c s).draws = s.draws := rfl
@[simp] theorem setCalcCrc_agenda (c : Half) (s : State) : (setCalcCrc c s).agenda = s.agenda := rfl

/-! `setReadCrc`: it changes readCrc and nothing else. -/

@[simp] theorem setReadCrc_en (c : Half) (s : State) : (setReadCrc c s).en = s.en := rfl
@[simp] theorem setReadCrc_keyValid (c : Half) (s : State) : (setReadCrc c s).keyValid = s.keyValid := rfl
@[simp] theorem setReadCrc_idValid (c : Half) (s : State) : (setReadCrc c s).idValid = s.idValid := rfl
@[simp] theorem setReadCrc_resValid (c : Half) (s : State) : (setReadCrc c s).resValid = s.resValid := rfl
@[simp] theorem setReadCrc_phase (c : Half) (s : State) : (setReadCrc c s).phase = s.phase := rfl
@[simp] theorem setReadCrc_events (c : Half) (s : State) : (setReadCrc c s).events = s.events := rfl
@[simp] theorem setReadCrc_irqEn (c : Half) (s : State) : (setReadCrc c s).irqEn = s.irqEn := rfl
@[simp] theorem setReadCrc_frameResult (c : Half) (s : State) : (setReadCrc c s).frameResult = s.frameResult := rfl
@[simp] theorem setReadCrc_cmdResult (c : Half) (s : State) : (setReadCrc c s).cmdResult = s.cmdResult := rfl
@[simp] theorem setReadCrc_meterId (c : Half) (s : State) : (setReadCrc c s).meterId = s.meterId := rfl
@[simp] theorem setReadCrc_frameLen (c : Half) (s : State) : (setReadCrc c s).frameLen = s.frameLen := rfl
@[simp] theorem setReadCrc_calcCrc (c : Half) (s : State) : (setReadCrc c s).calcCrc = s.calcCrc := rfl
@[simp] theorem setReadCrc_readCrc (c : Half) (s : State) : (setReadCrc c s).readCrc = c := rfl
@[simp] theorem setReadCrc_ks (c : Half) (s : State) : (setReadCrc c s).ks = s.ks := rfl
@[simp] theorem setReadCrc_k (c : Half) (s : State) : (setReadCrc c s).k = s.k := rfl
@[simp] theorem setReadCrc_rk (c : Half) (s : State) : (setReadCrc c s).rk = s.rk := rfl
@[simp] theorem setReadCrc_ivr (c : Half) (s : State) : (setReadCrc c s).ivr = s.ivr := rfl
@[simp] theorem setReadCrc_totalRaw (c : Half) (s : State) : (setReadCrc c s).totalRaw = s.totalRaw := rfl
@[simp] theorem setReadCrc_monthRaw (c : Half) (s : State) : (setReadCrc c s).monthRaw = s.monthRaw := rfl
@[simp] theorem setReadCrc_flowTemp (c : Half) (s : State) : (setReadCrc c s).flowTemp = s.flowTemp := rfl
@[simp] theorem setReadCrc_ambientTemp (c : Half) (s : State) : (setReadCrc c s).ambientTemp = s.ambientTemp := rfl
@[simp] theorem setReadCrc_readingCi (c : Half) (s : State) : (setReadCrc c s).readingCi = s.readingCi := rfl
@[simp] theorem setReadCrc_framesRx (c : Half) (s : State) : (setReadCrc c s).framesRx = s.framesRx := rfl
@[simp] theorem setReadCrc_crcErrs (c : Half) (s : State) : (setReadCrc c s).crcErrs = s.crcErrs := rfl
@[simp] theorem setReadCrc_mem (c : Half) (s : State) : (setReadCrc c s).mem = s.mem := rfl
@[simp] theorem setReadCrc_preByte0 (c : Half) (s : State) : (setReadCrc c s).preByte0 = s.preByte0 := rfl
@[simp] theorem setReadCrc_bodyCnt (c : Half) (s : State) : (setReadCrc c s).bodyCnt = s.bodyCnt := rfl
@[simp] theorem setReadCrc_ctr (c : Half) (s : State) : (setReadCrc c s).ctr = s.ctr := rfl
@[simp] theorem setReadCrc_rearmEvents (c : Half) (s : State) : (setReadCrc c s).rearmEvents = s.rearmEvents := rfl
@[simp] theorem setReadCrc_syncN (c : Half) (s : State) : (setReadCrc c s).syncN = s.syncN := rfl
@[simp] theorem setReadCrc_rxq (c : Half) (s : State) : (setReadCrc c s).rxq = s.rxq := rfl
@[simp] theorem setReadCrc_busReads (c : Half) (s : State) : (setReadCrc c s).busReads = s.busReads := rfl
@[simp] theorem setReadCrc_draws (c : Half) (s : State) : (setReadCrc c s).draws = s.draws := rfl
@[simp] theorem setReadCrc_agenda (c : Half) (s : State) : (setReadCrc c s).agenda = s.agenda := rfl

/-! `failCommand`: it changes cmdResult, events and nothing else. -/

@[simp] theorem failCommand_en (r : CmdResult) (s : State) : (failCommand r s).en = s.en := rfl
@[simp] theorem failCommand_keyValid (r : CmdResult) (s : State) : (failCommand r s).keyValid = s.keyValid := rfl
@[simp] theorem failCommand_idValid (r : CmdResult) (s : State) : (failCommand r s).idValid = s.idValid := rfl
@[simp] theorem failCommand_resValid (r : CmdResult) (s : State) : (failCommand r s).resValid = s.resValid := rfl
@[simp] theorem failCommand_phase (r : CmdResult) (s : State) : (failCommand r s).phase = s.phase := rfl
@[simp] theorem failCommand_events (r : CmdResult) (s : State) : (failCommand r s).events = { s.events with cmdErr := true } := rfl
@[simp] theorem failCommand_irqEn (r : CmdResult) (s : State) : (failCommand r s).irqEn = s.irqEn := rfl
@[simp] theorem failCommand_frameResult (r : CmdResult) (s : State) : (failCommand r s).frameResult = s.frameResult := rfl
@[simp] theorem failCommand_cmdResult (r : CmdResult) (s : State) : (failCommand r s).cmdResult = r := rfl
@[simp] theorem failCommand_meterId (r : CmdResult) (s : State) : (failCommand r s).meterId = s.meterId := rfl
@[simp] theorem failCommand_frameLen (r : CmdResult) (s : State) : (failCommand r s).frameLen = s.frameLen := rfl
@[simp] theorem failCommand_calcCrc (r : CmdResult) (s : State) : (failCommand r s).calcCrc = s.calcCrc := rfl
@[simp] theorem failCommand_readCrc (r : CmdResult) (s : State) : (failCommand r s).readCrc = s.readCrc := rfl
@[simp] theorem failCommand_ks (r : CmdResult) (s : State) : (failCommand r s).ks = s.ks := rfl
@[simp] theorem failCommand_k (r : CmdResult) (s : State) : (failCommand r s).k = s.k := rfl
@[simp] theorem failCommand_rk (r : CmdResult) (s : State) : (failCommand r s).rk = s.rk := rfl
@[simp] theorem failCommand_ivr (r : CmdResult) (s : State) : (failCommand r s).ivr = s.ivr := rfl
@[simp] theorem failCommand_totalRaw (r : CmdResult) (s : State) : (failCommand r s).totalRaw = s.totalRaw := rfl
@[simp] theorem failCommand_monthRaw (r : CmdResult) (s : State) : (failCommand r s).monthRaw = s.monthRaw := rfl
@[simp] theorem failCommand_flowTemp (r : CmdResult) (s : State) : (failCommand r s).flowTemp = s.flowTemp := rfl
@[simp] theorem failCommand_ambientTemp (r : CmdResult) (s : State) : (failCommand r s).ambientTemp = s.ambientTemp := rfl
@[simp] theorem failCommand_readingCi (r : CmdResult) (s : State) : (failCommand r s).readingCi = s.readingCi := rfl
@[simp] theorem failCommand_framesRx (r : CmdResult) (s : State) : (failCommand r s).framesRx = s.framesRx := rfl
@[simp] theorem failCommand_crcErrs (r : CmdResult) (s : State) : (failCommand r s).crcErrs = s.crcErrs := rfl
@[simp] theorem failCommand_mem (r : CmdResult) (s : State) : (failCommand r s).mem = s.mem := rfl
@[simp] theorem failCommand_preByte0 (r : CmdResult) (s : State) : (failCommand r s).preByte0 = s.preByte0 := rfl
@[simp] theorem failCommand_bodyCnt (r : CmdResult) (s : State) : (failCommand r s).bodyCnt = s.bodyCnt := rfl
@[simp] theorem failCommand_ctr (r : CmdResult) (s : State) : (failCommand r s).ctr = s.ctr := rfl
@[simp] theorem failCommand_rearmEvents (r : CmdResult) (s : State) : (failCommand r s).rearmEvents = s.rearmEvents := rfl
@[simp] theorem failCommand_syncN (r : CmdResult) (s : State) : (failCommand r s).syncN = s.syncN := rfl
@[simp] theorem failCommand_rxq (r : CmdResult) (s : State) : (failCommand r s).rxq = s.rxq := rfl
@[simp] theorem failCommand_busReads (r : CmdResult) (s : State) : (failCommand r s).busReads = s.busReads := rfl
@[simp] theorem failCommand_draws (r : CmdResult) (s : State) : (failCommand r s).draws = s.draws := rfl
@[simp] theorem failCommand_agenda (r : CmdResult) (s : State) : (failCommand r s).agenda = s.agenda := rfl

/-! `loadKey`: it changes k, rk, keyValid and nothing else. -/

@[simp] theorem loadKey_en (s : State) : (loadKey s).en = s.en := rfl
@[simp] theorem loadKey_keyValid (s : State) : (loadKey s).keyValid = true := rfl
@[simp] theorem loadKey_idValid (s : State) : (loadKey s).idValid = s.idValid := rfl
@[simp] theorem loadKey_resValid (s : State) : (loadKey s).resValid = s.resValid := rfl
@[simp] theorem loadKey_phase (s : State) : (loadKey s).phase = s.phase := rfl
@[simp] theorem loadKey_events (s : State) : (loadKey s).events = s.events := rfl
@[simp] theorem loadKey_irqEn (s : State) : (loadKey s).irqEn = s.irqEn := rfl
@[simp] theorem loadKey_frameResult (s : State) : (loadKey s).frameResult = s.frameResult := rfl
@[simp] theorem loadKey_cmdResult (s : State) : (loadKey s).cmdResult = s.cmdResult := rfl
@[simp] theorem loadKey_meterId (s : State) : (loadKey s).meterId = s.meterId := rfl
@[simp] theorem loadKey_frameLen (s : State) : (loadKey s).frameLen = s.frameLen := rfl
@[simp] theorem loadKey_calcCrc (s : State) : (loadKey s).calcCrc = s.calcCrc := rfl
@[simp] theorem loadKey_readCrc (s : State) : (loadKey s).readCrc = s.readCrc := rfl
@[simp] theorem loadKey_ks (s : State) : (loadKey s).ks = s.ks := rfl
@[simp] theorem loadKey_k (s : State) : (loadKey s).k = s.ks := rfl
@[simp] theorem loadKey_rk (s : State) : (loadKey s).rk = keyExpansion s.ks := rfl
@[simp] theorem loadKey_ivr (s : State) : (loadKey s).ivr = s.ivr := rfl
@[simp] theorem loadKey_totalRaw (s : State) : (loadKey s).totalRaw = s.totalRaw := rfl
@[simp] theorem loadKey_monthRaw (s : State) : (loadKey s).monthRaw = s.monthRaw := rfl
@[simp] theorem loadKey_flowTemp (s : State) : (loadKey s).flowTemp = s.flowTemp := rfl
@[simp] theorem loadKey_ambientTemp (s : State) : (loadKey s).ambientTemp = s.ambientTemp := rfl
@[simp] theorem loadKey_readingCi (s : State) : (loadKey s).readingCi = s.readingCi := rfl
@[simp] theorem loadKey_framesRx (s : State) : (loadKey s).framesRx = s.framesRx := rfl
@[simp] theorem loadKey_crcErrs (s : State) : (loadKey s).crcErrs = s.crcErrs := rfl
@[simp] theorem loadKey_mem (s : State) : (loadKey s).mem = s.mem := rfl
@[simp] theorem loadKey_preByte0 (s : State) : (loadKey s).preByte0 = s.preByte0 := rfl
@[simp] theorem loadKey_bodyCnt (s : State) : (loadKey s).bodyCnt = s.bodyCnt := rfl
@[simp] theorem loadKey_ctr (s : State) : (loadKey s).ctr = s.ctr := rfl
@[simp] theorem loadKey_rearmEvents (s : State) : (loadKey s).rearmEvents = s.rearmEvents := rfl
@[simp] theorem loadKey_syncN (s : State) : (loadKey s).syncN = s.syncN := rfl
@[simp] theorem loadKey_rxq (s : State) : (loadKey s).rxq = s.rxq := rfl
@[simp] theorem loadKey_busReads (s : State) : (loadKey s).busReads = s.busReads := rfl
@[simp] theorem loadKey_draws (s : State) : (loadKey s).draws = s.draws := rfl
@[simp] theorem loadKey_agenda (s : State) : (loadKey s).agenda = s.agenda := rfl

/-! `setReading`: it changes totalRaw, monthRaw, flowTemp, ambientTemp, readingCi, resValid and nothing else. -/

@[simp] theorem setReading_en (o : FieldOffsets) (s : State) : (setReading o s).en = s.en := rfl
@[simp] theorem setReading_keyValid (o : FieldOffsets) (s : State) : (setReading o s).keyValid = s.keyValid := rfl
@[simp] theorem setReading_idValid (o : FieldOffsets) (s : State) : (setReading o s).idValid = s.idValid := rfl
@[simp] theorem setReading_resValid (o : FieldOffsets) (s : State) : (setReading o s).resValid = true := rfl
@[simp] theorem setReading_phase (o : FieldOffsets) (s : State) : (setReading o s).phase = s.phase := rfl
@[simp] theorem setReading_events (o : FieldOffsets) (s : State) : (setReading o s).events = s.events := rfl
@[simp] theorem setReading_irqEn (o : FieldOffsets) (s : State) : (setReading o s).irqEn = s.irqEn := rfl
@[simp] theorem setReading_frameResult (o : FieldOffsets) (s : State) : (setReading o s).frameResult = s.frameResult := rfl
@[simp] theorem setReading_cmdResult (o : FieldOffsets) (s : State) : (setReading o s).cmdResult = s.cmdResult := rfl
@[simp] theorem setReading_meterId (o : FieldOffsets) (s : State) : (setReading o s).meterId = s.meterId := rfl
@[simp] theorem setReading_frameLen (o : FieldOffsets) (s : State) : (setReading o s).frameLen = s.frameLen := rfl
@[simp] theorem setReading_calcCrc (o : FieldOffsets) (s : State) : (setReading o s).calcCrc = s.calcCrc := rfl
@[simp] theorem setReading_readCrc (o : FieldOffsets) (s : State) : (setReading o s).readCrc = s.readCrc := rfl
@[simp] theorem setReading_ks (o : FieldOffsets) (s : State) : (setReading o s).ks = s.ks := rfl
@[simp] theorem setReading_k (o : FieldOffsets) (s : State) : (setReading o s).k = s.k := rfl
@[simp] theorem setReading_rk (o : FieldOffsets) (s : State) : (setReading o s).rk = s.rk := rfl
@[simp] theorem setReading_ivr (o : FieldOffsets) (s : State) : (setReading o s).ivr = s.ivr := rfl
@[simp] theorem setReading_totalRaw (o : FieldOffsets) (s : State) : (setReading o s).totalRaw = le32 (plainByte s) o.total := rfl
@[simp] theorem setReading_monthRaw (o : FieldOffsets) (s : State) : (setReading o s).monthRaw = le32 (plainByte s) o.month := rfl
@[simp] theorem setReading_flowTemp (o : FieldOffsets) (s : State) : (setReading o s).flowTemp = plainByte s o.flow := rfl
@[simp] theorem setReading_ambientTemp (o : FieldOffsets) (s : State) : (setReading o s).ambientTemp = plainByte s o.ambient := rfl
@[simp] theorem setReading_readingCi (o : FieldOffsets) (s : State) : (setReading o s).readingCi = ciByte s := rfl
@[simp] theorem setReading_framesRx (o : FieldOffsets) (s : State) : (setReading o s).framesRx = s.framesRx := rfl
@[simp] theorem setReading_crcErrs (o : FieldOffsets) (s : State) : (setReading o s).crcErrs = s.crcErrs := rfl
@[simp] theorem setReading_mem (o : FieldOffsets) (s : State) : (setReading o s).mem = s.mem := rfl
@[simp] theorem setReading_preByte0 (o : FieldOffsets) (s : State) : (setReading o s).preByte0 = s.preByte0 := rfl
@[simp] theorem setReading_bodyCnt (o : FieldOffsets) (s : State) : (setReading o s).bodyCnt = s.bodyCnt := rfl
@[simp] theorem setReading_ctr (o : FieldOffsets) (s : State) : (setReading o s).ctr = s.ctr := rfl
@[simp] theorem setReading_rearmEvents (o : FieldOffsets) (s : State) : (setReading o s).rearmEvents = s.rearmEvents := rfl
@[simp] theorem setReading_syncN (o : FieldOffsets) (s : State) : (setReading o s).syncN = s.syncN := rfl
@[simp] theorem setReading_rxq (o : FieldOffsets) (s : State) : (setReading o s).rxq = s.rxq := rfl
@[simp] theorem setReading_busReads (o : FieldOffsets) (s : State) : (setReading o s).busReads = s.busReads := rfl
@[simp] theorem setReading_draws (o : FieldOffsets) (s : State) : (setReading o s).draws = s.draws := rfl
@[simp] theorem setReading_agenda (o : FieldOffsets) (s : State) : (setReading o s).agenda = s.agenda := rfl

/-! `noteOverrun`: it changes events and nothing else. -/

@[simp] theorem noteOverrun_en (s : State) : (noteOverrun s).en = s.en := rfl
@[simp] theorem noteOverrun_keyValid (s : State) : (noteOverrun s).keyValid = s.keyValid := rfl
@[simp] theorem noteOverrun_idValid (s : State) : (noteOverrun s).idValid = s.idValid := rfl
@[simp] theorem noteOverrun_resValid (s : State) : (noteOverrun s).resValid = s.resValid := rfl
@[simp] theorem noteOverrun_phase (s : State) : (noteOverrun s).phase = s.phase := rfl
@[simp] theorem noteOverrun_events (s : State) : (noteOverrun s).events = { s.events with ovr := s.events.ovr || s.events.reading } := rfl
@[simp] theorem noteOverrun_irqEn (s : State) : (noteOverrun s).irqEn = s.irqEn := rfl
@[simp] theorem noteOverrun_frameResult (s : State) : (noteOverrun s).frameResult = s.frameResult := rfl
@[simp] theorem noteOverrun_cmdResult (s : State) : (noteOverrun s).cmdResult = s.cmdResult := rfl
@[simp] theorem noteOverrun_meterId (s : State) : (noteOverrun s).meterId = s.meterId := rfl
@[simp] theorem noteOverrun_frameLen (s : State) : (noteOverrun s).frameLen = s.frameLen := rfl
@[simp] theorem noteOverrun_calcCrc (s : State) : (noteOverrun s).calcCrc = s.calcCrc := rfl
@[simp] theorem noteOverrun_readCrc (s : State) : (noteOverrun s).readCrc = s.readCrc := rfl
@[simp] theorem noteOverrun_ks (s : State) : (noteOverrun s).ks = s.ks := rfl
@[simp] theorem noteOverrun_k (s : State) : (noteOverrun s).k = s.k := rfl
@[simp] theorem noteOverrun_rk (s : State) : (noteOverrun s).rk = s.rk := rfl
@[simp] theorem noteOverrun_ivr (s : State) : (noteOverrun s).ivr = s.ivr := rfl
@[simp] theorem noteOverrun_totalRaw (s : State) : (noteOverrun s).totalRaw = s.totalRaw := rfl
@[simp] theorem noteOverrun_monthRaw (s : State) : (noteOverrun s).monthRaw = s.monthRaw := rfl
@[simp] theorem noteOverrun_flowTemp (s : State) : (noteOverrun s).flowTemp = s.flowTemp := rfl
@[simp] theorem noteOverrun_ambientTemp (s : State) : (noteOverrun s).ambientTemp = s.ambientTemp := rfl
@[simp] theorem noteOverrun_readingCi (s : State) : (noteOverrun s).readingCi = s.readingCi := rfl
@[simp] theorem noteOverrun_framesRx (s : State) : (noteOverrun s).framesRx = s.framesRx := rfl
@[simp] theorem noteOverrun_crcErrs (s : State) : (noteOverrun s).crcErrs = s.crcErrs := rfl
@[simp] theorem noteOverrun_mem (s : State) : (noteOverrun s).mem = s.mem := rfl
@[simp] theorem noteOverrun_preByte0 (s : State) : (noteOverrun s).preByte0 = s.preByte0 := rfl
@[simp] theorem noteOverrun_bodyCnt (s : State) : (noteOverrun s).bodyCnt = s.bodyCnt := rfl
@[simp] theorem noteOverrun_ctr (s : State) : (noteOverrun s).ctr = s.ctr := rfl
@[simp] theorem noteOverrun_rearmEvents (s : State) : (noteOverrun s).rearmEvents = s.rearmEvents := rfl
@[simp] theorem noteOverrun_syncN (s : State) : (noteOverrun s).syncN = s.syncN := rfl
@[simp] theorem noteOverrun_rxq (s : State) : (noteOverrun s).rxq = s.rxq := rfl
@[simp] theorem noteOverrun_busReads (s : State) : (noteOverrun s).busReads = s.busReads := rfl
@[simp] theorem noteOverrun_draws (s : State) : (noteOverrun s).draws = s.draws := rfl
@[simp] theorem noteOverrun_agenda (s : State) : (noteOverrun s).agenda = s.agenda := rfl

/-! `countCrcError`: it changes crcErrs and nothing else. -/

@[simp] theorem countCrcError_en (s : State) : (countCrcError s).en = s.en := rfl
@[simp] theorem countCrcError_keyValid (s : State) : (countCrcError s).keyValid = s.keyValid := rfl
@[simp] theorem countCrcError_idValid (s : State) : (countCrcError s).idValid = s.idValid := rfl
@[simp] theorem countCrcError_resValid (s : State) : (countCrcError s).resValid = s.resValid := rfl
@[simp] theorem countCrcError_phase (s : State) : (countCrcError s).phase = s.phase := rfl
@[simp] theorem countCrcError_events (s : State) : (countCrcError s).events = s.events := rfl
@[simp] theorem countCrcError_irqEn (s : State) : (countCrcError s).irqEn = s.irqEn := rfl
@[simp] theorem countCrcError_frameResult (s : State) : (countCrcError s).frameResult = s.frameResult := rfl
@[simp] theorem countCrcError_cmdResult (s : State) : (countCrcError s).cmdResult = s.cmdResult := rfl
@[simp] theorem countCrcError_meterId (s : State) : (countCrcError s).meterId = s.meterId := rfl
@[simp] theorem countCrcError_frameLen (s : State) : (countCrcError s).frameLen = s.frameLen := rfl
@[simp] theorem countCrcError_calcCrc (s : State) : (countCrcError s).calcCrc = s.calcCrc := rfl
@[simp] theorem countCrcError_readCrc (s : State) : (countCrcError s).readCrc = s.readCrc := rfl
@[simp] theorem countCrcError_ks (s : State) : (countCrcError s).ks = s.ks := rfl
@[simp] theorem countCrcError_k (s : State) : (countCrcError s).k = s.k := rfl
@[simp] theorem countCrcError_rk (s : State) : (countCrcError s).rk = s.rk := rfl
@[simp] theorem countCrcError_ivr (s : State) : (countCrcError s).ivr = s.ivr := rfl
@[simp] theorem countCrcError_totalRaw (s : State) : (countCrcError s).totalRaw = s.totalRaw := rfl
@[simp] theorem countCrcError_monthRaw (s : State) : (countCrcError s).monthRaw = s.monthRaw := rfl
@[simp] theorem countCrcError_flowTemp (s : State) : (countCrcError s).flowTemp = s.flowTemp := rfl
@[simp] theorem countCrcError_ambientTemp (s : State) : (countCrcError s).ambientTemp = s.ambientTemp := rfl
@[simp] theorem countCrcError_readingCi (s : State) : (countCrcError s).readingCi = s.readingCi := rfl
@[simp] theorem countCrcError_framesRx (s : State) : (countCrcError s).framesRx = s.framesRx := rfl
@[simp] theorem countCrcError_crcErrs (s : State) : (countCrcError s).crcErrs = s.crcErrs + 1#32 := rfl
@[simp] theorem countCrcError_mem (s : State) : (countCrcError s).mem = s.mem := rfl
@[simp] theorem countCrcError_preByte0 (s : State) : (countCrcError s).preByte0 = s.preByte0 := rfl
@[simp] theorem countCrcError_bodyCnt (s : State) : (countCrcError s).bodyCnt = s.bodyCnt := rfl
@[simp] theorem countCrcError_ctr (s : State) : (countCrcError s).ctr = s.ctr := rfl
@[simp] theorem countCrcError_rearmEvents (s : State) : (countCrcError s).rearmEvents = s.rearmEvents := rfl
@[simp] theorem countCrcError_syncN (s : State) : (countCrcError s).syncN = s.syncN := rfl
@[simp] theorem countCrcError_rxq (s : State) : (countCrcError s).rxq = s.rxq := rfl
@[simp] theorem countCrcError_busReads (s : State) : (countCrcError s).busReads = s.busReads := rfl
@[simp] theorem countCrcError_draws (s : State) : (countCrcError s).draws = s.draws := rfl
@[simp] theorem countCrcError_agenda (s : State) : (countCrcError s).agenda = s.agenda := rfl

/-! `setFrameLen`: it changes frameLen and nothing else. -/

@[simp] theorem setFrameLen_en (l : Byte) (s : State) : (setFrameLen l s).en = s.en := rfl
@[simp] theorem setFrameLen_keyValid (l : Byte) (s : State) : (setFrameLen l s).keyValid = s.keyValid := rfl
@[simp] theorem setFrameLen_idValid (l : Byte) (s : State) : (setFrameLen l s).idValid = s.idValid := rfl
@[simp] theorem setFrameLen_resValid (l : Byte) (s : State) : (setFrameLen l s).resValid = s.resValid := rfl
@[simp] theorem setFrameLen_phase (l : Byte) (s : State) : (setFrameLen l s).phase = s.phase := rfl
@[simp] theorem setFrameLen_events (l : Byte) (s : State) : (setFrameLen l s).events = s.events := rfl
@[simp] theorem setFrameLen_irqEn (l : Byte) (s : State) : (setFrameLen l s).irqEn = s.irqEn := rfl
@[simp] theorem setFrameLen_frameResult (l : Byte) (s : State) : (setFrameLen l s).frameResult = s.frameResult := rfl
@[simp] theorem setFrameLen_cmdResult (l : Byte) (s : State) : (setFrameLen l s).cmdResult = s.cmdResult := rfl
@[simp] theorem setFrameLen_meterId (l : Byte) (s : State) : (setFrameLen l s).meterId = s.meterId := rfl
@[simp] theorem setFrameLen_frameLen (l : Byte) (s : State) : (setFrameLen l s).frameLen = l := rfl
@[simp] theorem setFrameLen_calcCrc (l : Byte) (s : State) : (setFrameLen l s).calcCrc = s.calcCrc := rfl
@[simp] theorem setFrameLen_readCrc (l : Byte) (s : State) : (setFrameLen l s).readCrc = s.readCrc := rfl
@[simp] theorem setFrameLen_ks (l : Byte) (s : State) : (setFrameLen l s).ks = s.ks := rfl
@[simp] theorem setFrameLen_k (l : Byte) (s : State) : (setFrameLen l s).k = s.k := rfl
@[simp] theorem setFrameLen_rk (l : Byte) (s : State) : (setFrameLen l s).rk = s.rk := rfl
@[simp] theorem setFrameLen_ivr (l : Byte) (s : State) : (setFrameLen l s).ivr = s.ivr := rfl
@[simp] theorem setFrameLen_totalRaw (l : Byte) (s : State) : (setFrameLen l s).totalRaw = s.totalRaw := rfl
@[simp] theorem setFrameLen_monthRaw (l : Byte) (s : State) : (setFrameLen l s).monthRaw = s.monthRaw := rfl
@[simp] theorem setFrameLen_flowTemp (l : Byte) (s : State) : (setFrameLen l s).flowTemp = s.flowTemp := rfl
@[simp] theorem setFrameLen_ambientTemp (l : Byte) (s : State) : (setFrameLen l s).ambientTemp = s.ambientTemp := rfl
@[simp] theorem setFrameLen_readingCi (l : Byte) (s : State) : (setFrameLen l s).readingCi = s.readingCi := rfl
@[simp] theorem setFrameLen_framesRx (l : Byte) (s : State) : (setFrameLen l s).framesRx = s.framesRx := rfl
@[simp] theorem setFrameLen_crcErrs (l : Byte) (s : State) : (setFrameLen l s).crcErrs = s.crcErrs := rfl
@[simp] theorem setFrameLen_mem (l : Byte) (s : State) : (setFrameLen l s).mem = s.mem := rfl
@[simp] theorem setFrameLen_preByte0 (l : Byte) (s : State) : (setFrameLen l s).preByte0 = s.preByte0 := rfl
@[simp] theorem setFrameLen_bodyCnt (l : Byte) (s : State) : (setFrameLen l s).bodyCnt = s.bodyCnt := rfl
@[simp] theorem setFrameLen_ctr (l : Byte) (s : State) : (setFrameLen l s).ctr = s.ctr := rfl
@[simp] theorem setFrameLen_rearmEvents (l : Byte) (s : State) : (setFrameLen l s).rearmEvents = s.rearmEvents := rfl
@[simp] theorem setFrameLen_syncN (l : Byte) (s : State) : (setFrameLen l s).syncN = s.syncN := rfl
@[simp] theorem setFrameLen_rxq (l : Byte) (s : State) : (setFrameLen l s).rxq = s.rxq := rfl
@[simp] theorem setFrameLen_busReads (l : Byte) (s : State) : (setFrameLen l s).busReads = s.busReads := rfl
@[simp] theorem setFrameLen_draws (l : Byte) (s : State) : (setFrameLen l s).draws = s.draws := rfl
@[simp] theorem setFrameLen_agenda (l : Byte) (s : State) : (setFrameLen l s).agenda = s.agenda := rfl

/-! `countFrame`: it changes framesRx and nothing else. -/

@[simp] theorem countFrame_en (s : State) : (countFrame s).en = s.en := rfl
@[simp] theorem countFrame_keyValid (s : State) : (countFrame s).keyValid = s.keyValid := rfl
@[simp] theorem countFrame_idValid (s : State) : (countFrame s).idValid = s.idValid := rfl
@[simp] theorem countFrame_resValid (s : State) : (countFrame s).resValid = s.resValid := rfl
@[simp] theorem countFrame_phase (s : State) : (countFrame s).phase = s.phase := rfl
@[simp] theorem countFrame_events (s : State) : (countFrame s).events = s.events := rfl
@[simp] theorem countFrame_irqEn (s : State) : (countFrame s).irqEn = s.irqEn := rfl
@[simp] theorem countFrame_frameResult (s : State) : (countFrame s).frameResult = s.frameResult := rfl
@[simp] theorem countFrame_cmdResult (s : State) : (countFrame s).cmdResult = s.cmdResult := rfl
@[simp] theorem countFrame_meterId (s : State) : (countFrame s).meterId = s.meterId := rfl
@[simp] theorem countFrame_frameLen (s : State) : (countFrame s).frameLen = s.frameLen := rfl
@[simp] theorem countFrame_calcCrc (s : State) : (countFrame s).calcCrc = s.calcCrc := rfl
@[simp] theorem countFrame_readCrc (s : State) : (countFrame s).readCrc = s.readCrc := rfl
@[simp] theorem countFrame_ks (s : State) : (countFrame s).ks = s.ks := rfl
@[simp] theorem countFrame_k (s : State) : (countFrame s).k = s.k := rfl
@[simp] theorem countFrame_rk (s : State) : (countFrame s).rk = s.rk := rfl
@[simp] theorem countFrame_ivr (s : State) : (countFrame s).ivr = s.ivr := rfl
@[simp] theorem countFrame_totalRaw (s : State) : (countFrame s).totalRaw = s.totalRaw := rfl
@[simp] theorem countFrame_monthRaw (s : State) : (countFrame s).monthRaw = s.monthRaw := rfl
@[simp] theorem countFrame_flowTemp (s : State) : (countFrame s).flowTemp = s.flowTemp := rfl
@[simp] theorem countFrame_ambientTemp (s : State) : (countFrame s).ambientTemp = s.ambientTemp := rfl
@[simp] theorem countFrame_readingCi (s : State) : (countFrame s).readingCi = s.readingCi := rfl
@[simp] theorem countFrame_framesRx (s : State) : (countFrame s).framesRx = s.framesRx + 1#32 := rfl
@[simp] theorem countFrame_crcErrs (s : State) : (countFrame s).crcErrs = s.crcErrs := rfl
@[simp] theorem countFrame_mem (s : State) : (countFrame s).mem = s.mem := rfl
@[simp] theorem countFrame_preByte0 (s : State) : (countFrame s).preByte0 = s.preByte0 := rfl
@[simp] theorem countFrame_bodyCnt (s : State) : (countFrame s).bodyCnt = s.bodyCnt := rfl
@[simp] theorem countFrame_ctr (s : State) : (countFrame s).ctr = s.ctr := rfl
@[simp] theorem countFrame_rearmEvents (s : State) : (countFrame s).rearmEvents = s.rearmEvents := rfl
@[simp] theorem countFrame_syncN (s : State) : (countFrame s).syncN = s.syncN := rfl
@[simp] theorem countFrame_rxq (s : State) : (countFrame s).rxq = s.rxq := rfl
@[simp] theorem countFrame_busReads (s : State) : (countFrame s).busReads = s.busReads := rfl
@[simp] theorem countFrame_draws (s : State) : (countFrame s).draws = s.draws := rfl
@[simp] theorem countFrame_agenda (s : State) : (countFrame s).agenda = s.agenda := rfl

/-! `setIrqEn`: it changes irqEn and nothing else. -/

@[simp] theorem setIrqEn_en (v : Word) (s : State) : (setIrqEn v s).en = s.en := rfl
@[simp] theorem setIrqEn_keyValid (v : Word) (s : State) : (setIrqEn v s).keyValid = s.keyValid := rfl
@[simp] theorem setIrqEn_idValid (v : Word) (s : State) : (setIrqEn v s).idValid = s.idValid := rfl
@[simp] theorem setIrqEn_resValid (v : Word) (s : State) : (setIrqEn v s).resValid = s.resValid := rfl
@[simp] theorem setIrqEn_phase (v : Word) (s : State) : (setIrqEn v s).phase = s.phase := rfl
@[simp] theorem setIrqEn_events (v : Word) (s : State) : (setIrqEn v s).events = s.events := rfl
@[simp] theorem setIrqEn_irqEn (v : Word) (s : State) : (setIrqEn v s).irqEn = EventBits.ofWord v := rfl
@[simp] theorem setIrqEn_frameResult (v : Word) (s : State) : (setIrqEn v s).frameResult = s.frameResult := rfl
@[simp] theorem setIrqEn_cmdResult (v : Word) (s : State) : (setIrqEn v s).cmdResult = s.cmdResult := rfl
@[simp] theorem setIrqEn_meterId (v : Word) (s : State) : (setIrqEn v s).meterId = s.meterId := rfl
@[simp] theorem setIrqEn_frameLen (v : Word) (s : State) : (setIrqEn v s).frameLen = s.frameLen := rfl
@[simp] theorem setIrqEn_calcCrc (v : Word) (s : State) : (setIrqEn v s).calcCrc = s.calcCrc := rfl
@[simp] theorem setIrqEn_readCrc (v : Word) (s : State) : (setIrqEn v s).readCrc = s.readCrc := rfl
@[simp] theorem setIrqEn_ks (v : Word) (s : State) : (setIrqEn v s).ks = s.ks := rfl
@[simp] theorem setIrqEn_k (v : Word) (s : State) : (setIrqEn v s).k = s.k := rfl
@[simp] theorem setIrqEn_rk (v : Word) (s : State) : (setIrqEn v s).rk = s.rk := rfl
@[simp] theorem setIrqEn_ivr (v : Word) (s : State) : (setIrqEn v s).ivr = s.ivr := rfl
@[simp] theorem setIrqEn_totalRaw (v : Word) (s : State) : (setIrqEn v s).totalRaw = s.totalRaw := rfl
@[simp] theorem setIrqEn_monthRaw (v : Word) (s : State) : (setIrqEn v s).monthRaw = s.monthRaw := rfl
@[simp] theorem setIrqEn_flowTemp (v : Word) (s : State) : (setIrqEn v s).flowTemp = s.flowTemp := rfl
@[simp] theorem setIrqEn_ambientTemp (v : Word) (s : State) : (setIrqEn v s).ambientTemp = s.ambientTemp := rfl
@[simp] theorem setIrqEn_readingCi (v : Word) (s : State) : (setIrqEn v s).readingCi = s.readingCi := rfl
@[simp] theorem setIrqEn_framesRx (v : Word) (s : State) : (setIrqEn v s).framesRx = s.framesRx := rfl
@[simp] theorem setIrqEn_crcErrs (v : Word) (s : State) : (setIrqEn v s).crcErrs = s.crcErrs := rfl
@[simp] theorem setIrqEn_mem (v : Word) (s : State) : (setIrqEn v s).mem = s.mem := rfl
@[simp] theorem setIrqEn_preByte0 (v : Word) (s : State) : (setIrqEn v s).preByte0 = s.preByte0 := rfl
@[simp] theorem setIrqEn_bodyCnt (v : Word) (s : State) : (setIrqEn v s).bodyCnt = s.bodyCnt := rfl
@[simp] theorem setIrqEn_ctr (v : Word) (s : State) : (setIrqEn v s).ctr = s.ctr := rfl
@[simp] theorem setIrqEn_rearmEvents (v : Word) (s : State) : (setIrqEn v s).rearmEvents = s.rearmEvents := rfl
@[simp] theorem setIrqEn_syncN (v : Word) (s : State) : (setIrqEn v s).syncN = s.syncN := rfl
@[simp] theorem setIrqEn_rxq (v : Word) (s : State) : (setIrqEn v s).rxq = s.rxq := rfl
@[simp] theorem setIrqEn_busReads (v : Word) (s : State) : (setIrqEn v s).busReads = s.busReads := rfl
@[simp] theorem setIrqEn_draws (v : Word) (s : State) : (setIrqEn v s).draws = s.draws := rfl
@[simp] theorem setIrqEn_agenda (v : Word) (s : State) : (setIrqEn v s).agenda = s.agenda := rfl

/-! `radioByte`: it changes rxq and nothing else. -/

@[simp] theorem radioByte_en (b : Byte) (s : State) : (radioByte b s).en = s.en := rfl
@[simp] theorem radioByte_keyValid (b : Byte) (s : State) : (radioByte b s).keyValid = s.keyValid := rfl
@[simp] theorem radioByte_idValid (b : Byte) (s : State) : (radioByte b s).idValid = s.idValid := rfl
@[simp] theorem radioByte_resValid (b : Byte) (s : State) : (radioByte b s).resValid = s.resValid := rfl
@[simp] theorem radioByte_phase (b : Byte) (s : State) : (radioByte b s).phase = s.phase := rfl
@[simp] theorem radioByte_events (b : Byte) (s : State) : (radioByte b s).events = s.events := rfl
@[simp] theorem radioByte_irqEn (b : Byte) (s : State) : (radioByte b s).irqEn = s.irqEn := rfl
@[simp] theorem radioByte_frameResult (b : Byte) (s : State) : (radioByte b s).frameResult = s.frameResult := rfl
@[simp] theorem radioByte_cmdResult (b : Byte) (s : State) : (radioByte b s).cmdResult = s.cmdResult := rfl
@[simp] theorem radioByte_meterId (b : Byte) (s : State) : (radioByte b s).meterId = s.meterId := rfl
@[simp] theorem radioByte_frameLen (b : Byte) (s : State) : (radioByte b s).frameLen = s.frameLen := rfl
@[simp] theorem radioByte_calcCrc (b : Byte) (s : State) : (radioByte b s).calcCrc = s.calcCrc := rfl
@[simp] theorem radioByte_readCrc (b : Byte) (s : State) : (radioByte b s).readCrc = s.readCrc := rfl
@[simp] theorem radioByte_ks (b : Byte) (s : State) : (radioByte b s).ks = s.ks := rfl
@[simp] theorem radioByte_k (b : Byte) (s : State) : (radioByte b s).k = s.k := rfl
@[simp] theorem radioByte_rk (b : Byte) (s : State) : (radioByte b s).rk = s.rk := rfl
@[simp] theorem radioByte_ivr (b : Byte) (s : State) : (radioByte b s).ivr = s.ivr := rfl
@[simp] theorem radioByte_totalRaw (b : Byte) (s : State) : (radioByte b s).totalRaw = s.totalRaw := rfl
@[simp] theorem radioByte_monthRaw (b : Byte) (s : State) : (radioByte b s).monthRaw = s.monthRaw := rfl
@[simp] theorem radioByte_flowTemp (b : Byte) (s : State) : (radioByte b s).flowTemp = s.flowTemp := rfl
@[simp] theorem radioByte_ambientTemp (b : Byte) (s : State) : (radioByte b s).ambientTemp = s.ambientTemp := rfl
@[simp] theorem radioByte_readingCi (b : Byte) (s : State) : (radioByte b s).readingCi = s.readingCi := rfl
@[simp] theorem radioByte_framesRx (b : Byte) (s : State) : (radioByte b s).framesRx = s.framesRx := rfl
@[simp] theorem radioByte_crcErrs (b : Byte) (s : State) : (radioByte b s).crcErrs = s.crcErrs := rfl
@[simp] theorem radioByte_mem (b : Byte) (s : State) : (radioByte b s).mem = s.mem := rfl
@[simp] theorem radioByte_preByte0 (b : Byte) (s : State) : (radioByte b s).preByte0 = s.preByte0 := rfl
@[simp] theorem radioByte_bodyCnt (b : Byte) (s : State) : (radioByte b s).bodyCnt = s.bodyCnt := rfl
@[simp] theorem radioByte_ctr (b : Byte) (s : State) : (radioByte b s).ctr = s.ctr := rfl
@[simp] theorem radioByte_rearmEvents (b : Byte) (s : State) : (radioByte b s).rearmEvents = s.rearmEvents := rfl
@[simp] theorem radioByte_syncN (b : Byte) (s : State) : (radioByte b s).syncN = s.syncN := rfl
@[simp] theorem radioByte_rxq (b : Byte) (s : State) : (radioByte b s).rxq = s.rxq ++ [b] := rfl
@[simp] theorem radioByte_busReads (b : Byte) (s : State) : (radioByte b s).busReads = s.busReads := rfl
@[simp] theorem radioByte_draws (b : Byte) (s : State) : (radioByte b s).draws = s.draws := rfl
@[simp] theorem radioByte_agenda (b : Byte) (s : State) : (radioByte b s).agenda = s.agenda := rfl

/-! `radioSync`: it changes syncN and nothing else. -/

@[simp] theorem radioSync_en (l : Bool) (s : State) : (radioSync l s).en = s.en := rfl
@[simp] theorem radioSync_keyValid (l : Bool) (s : State) : (radioSync l s).keyValid = s.keyValid := rfl
@[simp] theorem radioSync_idValid (l : Bool) (s : State) : (radioSync l s).idValid = s.idValid := rfl
@[simp] theorem radioSync_resValid (l : Bool) (s : State) : (radioSync l s).resValid = s.resValid := rfl
@[simp] theorem radioSync_phase (l : Bool) (s : State) : (radioSync l s).phase = s.phase := rfl
@[simp] theorem radioSync_events (l : Bool) (s : State) : (radioSync l s).events = s.events := rfl
@[simp] theorem radioSync_irqEn (l : Bool) (s : State) : (radioSync l s).irqEn = s.irqEn := rfl
@[simp] theorem radioSync_frameResult (l : Bool) (s : State) : (radioSync l s).frameResult = s.frameResult := rfl
@[simp] theorem radioSync_cmdResult (l : Bool) (s : State) : (radioSync l s).cmdResult = s.cmdResult := rfl
@[simp] theorem radioSync_meterId (l : Bool) (s : State) : (radioSync l s).meterId = s.meterId := rfl
@[simp] theorem radioSync_frameLen (l : Bool) (s : State) : (radioSync l s).frameLen = s.frameLen := rfl
@[simp] theorem radioSync_calcCrc (l : Bool) (s : State) : (radioSync l s).calcCrc = s.calcCrc := rfl
@[simp] theorem radioSync_readCrc (l : Bool) (s : State) : (radioSync l s).readCrc = s.readCrc := rfl
@[simp] theorem radioSync_ks (l : Bool) (s : State) : (radioSync l s).ks = s.ks := rfl
@[simp] theorem radioSync_k (l : Bool) (s : State) : (radioSync l s).k = s.k := rfl
@[simp] theorem radioSync_rk (l : Bool) (s : State) : (radioSync l s).rk = s.rk := rfl
@[simp] theorem radioSync_ivr (l : Bool) (s : State) : (radioSync l s).ivr = s.ivr := rfl
@[simp] theorem radioSync_totalRaw (l : Bool) (s : State) : (radioSync l s).totalRaw = s.totalRaw := rfl
@[simp] theorem radioSync_monthRaw (l : Bool) (s : State) : (radioSync l s).monthRaw = s.monthRaw := rfl
@[simp] theorem radioSync_flowTemp (l : Bool) (s : State) : (radioSync l s).flowTemp = s.flowTemp := rfl
@[simp] theorem radioSync_ambientTemp (l : Bool) (s : State) : (radioSync l s).ambientTemp = s.ambientTemp := rfl
@[simp] theorem radioSync_readingCi (l : Bool) (s : State) : (radioSync l s).readingCi = s.readingCi := rfl
@[simp] theorem radioSync_framesRx (l : Bool) (s : State) : (radioSync l s).framesRx = s.framesRx := rfl
@[simp] theorem radioSync_crcErrs (l : Bool) (s : State) : (radioSync l s).crcErrs = s.crcErrs := rfl
@[simp] theorem radioSync_mem (l : Bool) (s : State) : (radioSync l s).mem = s.mem := rfl
@[simp] theorem radioSync_preByte0 (l : Bool) (s : State) : (radioSync l s).preByte0 = s.preByte0 := rfl
@[simp] theorem radioSync_bodyCnt (l : Bool) (s : State) : (radioSync l s).bodyCnt = s.bodyCnt := rfl
@[simp] theorem radioSync_ctr (l : Bool) (s : State) : (radioSync l s).ctr = s.ctr := rfl
@[simp] theorem radioSync_rearmEvents (l : Bool) (s : State) : (radioSync l s).rearmEvents = s.rearmEvents := rfl
@[simp] theorem radioSync_syncN (l : Bool) (s : State) : (radioSync l s).syncN = l := rfl
@[simp] theorem radioSync_rxq (l : Bool) (s : State) : (radioSync l s).rxq = s.rxq := rfl
@[simp] theorem radioSync_busReads (l : Bool) (s : State) : (radioSync l s).busReads = s.busReads := rfl
@[simp] theorem radioSync_draws (l : Bool) (s : State) : (radioSync l s).draws = s.draws := rfl
@[simp] theorem radioSync_agenda (l : Bool) (s : State) : (radioSync l s).agenda = s.agenda := rfl

/-! `radioFlush`: it changes rxq and nothing else. -/

@[simp] theorem radioFlush_en (s : State) : (radioFlush s).en = s.en := rfl
@[simp] theorem radioFlush_keyValid (s : State) : (radioFlush s).keyValid = s.keyValid := rfl
@[simp] theorem radioFlush_idValid (s : State) : (radioFlush s).idValid = s.idValid := rfl
@[simp] theorem radioFlush_resValid (s : State) : (radioFlush s).resValid = s.resValid := rfl
@[simp] theorem radioFlush_phase (s : State) : (radioFlush s).phase = s.phase := rfl
@[simp] theorem radioFlush_events (s : State) : (radioFlush s).events = s.events := rfl
@[simp] theorem radioFlush_irqEn (s : State) : (radioFlush s).irqEn = s.irqEn := rfl
@[simp] theorem radioFlush_frameResult (s : State) : (radioFlush s).frameResult = s.frameResult := rfl
@[simp] theorem radioFlush_cmdResult (s : State) : (radioFlush s).cmdResult = s.cmdResult := rfl
@[simp] theorem radioFlush_meterId (s : State) : (radioFlush s).meterId = s.meterId := rfl
@[simp] theorem radioFlush_frameLen (s : State) : (radioFlush s).frameLen = s.frameLen := rfl
@[simp] theorem radioFlush_calcCrc (s : State) : (radioFlush s).calcCrc = s.calcCrc := rfl
@[simp] theorem radioFlush_readCrc (s : State) : (radioFlush s).readCrc = s.readCrc := rfl
@[simp] theorem radioFlush_ks (s : State) : (radioFlush s).ks = s.ks := rfl
@[simp] theorem radioFlush_k (s : State) : (radioFlush s).k = s.k := rfl
@[simp] theorem radioFlush_rk (s : State) : (radioFlush s).rk = s.rk := rfl
@[simp] theorem radioFlush_ivr (s : State) : (radioFlush s).ivr = s.ivr := rfl
@[simp] theorem radioFlush_totalRaw (s : State) : (radioFlush s).totalRaw = s.totalRaw := rfl
@[simp] theorem radioFlush_monthRaw (s : State) : (radioFlush s).monthRaw = s.monthRaw := rfl
@[simp] theorem radioFlush_flowTemp (s : State) : (radioFlush s).flowTemp = s.flowTemp := rfl
@[simp] theorem radioFlush_ambientTemp (s : State) : (radioFlush s).ambientTemp = s.ambientTemp := rfl
@[simp] theorem radioFlush_readingCi (s : State) : (radioFlush s).readingCi = s.readingCi := rfl
@[simp] theorem radioFlush_framesRx (s : State) : (radioFlush s).framesRx = s.framesRx := rfl
@[simp] theorem radioFlush_crcErrs (s : State) : (radioFlush s).crcErrs = s.crcErrs := rfl
@[simp] theorem radioFlush_mem (s : State) : (radioFlush s).mem = s.mem := rfl
@[simp] theorem radioFlush_preByte0 (s : State) : (radioFlush s).preByte0 = s.preByte0 := rfl
@[simp] theorem radioFlush_bodyCnt (s : State) : (radioFlush s).bodyCnt = s.bodyCnt := rfl
@[simp] theorem radioFlush_ctr (s : State) : (radioFlush s).ctr = s.ctr := rfl
@[simp] theorem radioFlush_rearmEvents (s : State) : (radioFlush s).rearmEvents = s.rearmEvents := rfl
@[simp] theorem radioFlush_syncN (s : State) : (radioFlush s).syncN = s.syncN := rfl
@[simp] theorem radioFlush_rxq (s : State) : (radioFlush s).rxq = [] := rfl
@[simp] theorem radioFlush_busReads (s : State) : (radioFlush s).busReads = s.busReads := rfl
@[simp] theorem radioFlush_draws (s : State) : (radioFlush s).draws = s.draws := rfl
@[simp] theorem radioFlush_agenda (s : State) : (radioFlush s).agenda = s.agenda := rfl

/-! `startCore`: it changes en, phase, bodyCnt, rearmEvents and nothing else. -/

@[simp] theorem startCore_en (s : State) : (startCore s).en = true := rfl
@[simp] theorem startCore_keyValid (s : State) : (startCore s).keyValid = s.keyValid := rfl
@[simp] theorem startCore_idValid (s : State) : (startCore s).idValid = s.idValid := rfl
@[simp] theorem startCore_resValid (s : State) : (startCore s).resValid = s.resValid := rfl
@[simp] theorem startCore_phase (s : State) : (startCore s).phase = .waitSync := rfl
@[simp] theorem startCore_events (s : State) : (startCore s).events = s.events := rfl
@[simp] theorem startCore_irqEn (s : State) : (startCore s).irqEn = s.irqEn := rfl
@[simp] theorem startCore_frameResult (s : State) : (startCore s).frameResult = s.frameResult := rfl
@[simp] theorem startCore_cmdResult (s : State) : (startCore s).cmdResult = s.cmdResult := rfl
@[simp] theorem startCore_meterId (s : State) : (startCore s).meterId = s.meterId := rfl
@[simp] theorem startCore_frameLen (s : State) : (startCore s).frameLen = s.frameLen := rfl
@[simp] theorem startCore_calcCrc (s : State) : (startCore s).calcCrc = s.calcCrc := rfl
@[simp] theorem startCore_readCrc (s : State) : (startCore s).readCrc = s.readCrc := rfl
@[simp] theorem startCore_ks (s : State) : (startCore s).ks = s.ks := rfl
@[simp] theorem startCore_k (s : State) : (startCore s).k = s.k := rfl
@[simp] theorem startCore_rk (s : State) : (startCore s).rk = s.rk := rfl
@[simp] theorem startCore_ivr (s : State) : (startCore s).ivr = s.ivr := rfl
@[simp] theorem startCore_totalRaw (s : State) : (startCore s).totalRaw = s.totalRaw := rfl
@[simp] theorem startCore_monthRaw (s : State) : (startCore s).monthRaw = s.monthRaw := rfl
@[simp] theorem startCore_flowTemp (s : State) : (startCore s).flowTemp = s.flowTemp := rfl
@[simp] theorem startCore_ambientTemp (s : State) : (startCore s).ambientTemp = s.ambientTemp := rfl
@[simp] theorem startCore_readingCi (s : State) : (startCore s).readingCi = s.readingCi := rfl
@[simp] theorem startCore_framesRx (s : State) : (startCore s).framesRx = s.framesRx := rfl
@[simp] theorem startCore_crcErrs (s : State) : (startCore s).crcErrs = s.crcErrs := rfl
@[simp] theorem startCore_mem (s : State) : (startCore s).mem = s.mem := rfl
@[simp] theorem startCore_preByte0 (s : State) : (startCore s).preByte0 = s.preByte0 := rfl
@[simp] theorem startCore_bodyCnt (s : State) : (startCore s).bodyCnt = 0#6 := rfl
@[simp] theorem startCore_ctr (s : State) : (startCore s).ctr = s.ctr := rfl
@[simp] theorem startCore_rearmEvents (s : State) : (startCore s).rearmEvents = s.rearmEvents ++ [.rearm] := rfl
@[simp] theorem startCore_syncN (s : State) : (startCore s).syncN = s.syncN := rfl
@[simp] theorem startCore_rxq (s : State) : (startCore s).rxq = s.rxq := rfl
@[simp] theorem startCore_busReads (s : State) : (startCore s).busReads = s.busReads := rfl
@[simp] theorem startCore_draws (s : State) : (startCore s).draws = s.draws := rfl
@[simp] theorem startCore_agenda (s : State) : (startCore s).agenda = s.agenda := rfl

/-! `dropAction`: it changes agenda and nothing else. -/

@[simp] theorem dropAction_en (s : State) : (dropAction s).en = s.en := rfl
@[simp] theorem dropAction_keyValid (s : State) : (dropAction s).keyValid = s.keyValid := rfl
@[simp] theorem dropAction_idValid (s : State) : (dropAction s).idValid = s.idValid := rfl
@[simp] theorem dropAction_resValid (s : State) : (dropAction s).resValid = s.resValid := rfl
@[simp] theorem dropAction_phase (s : State) : (dropAction s).phase = s.phase := rfl
@[simp] theorem dropAction_events (s : State) : (dropAction s).events = s.events := rfl
@[simp] theorem dropAction_irqEn (s : State) : (dropAction s).irqEn = s.irqEn := rfl
@[simp] theorem dropAction_frameResult (s : State) : (dropAction s).frameResult = s.frameResult := rfl
@[simp] theorem dropAction_cmdResult (s : State) : (dropAction s).cmdResult = s.cmdResult := rfl
@[simp] theorem dropAction_meterId (s : State) : (dropAction s).meterId = s.meterId := rfl
@[simp] theorem dropAction_frameLen (s : State) : (dropAction s).frameLen = s.frameLen := rfl
@[simp] theorem dropAction_calcCrc (s : State) : (dropAction s).calcCrc = s.calcCrc := rfl
@[simp] theorem dropAction_readCrc (s : State) : (dropAction s).readCrc = s.readCrc := rfl
@[simp] theorem dropAction_ks (s : State) : (dropAction s).ks = s.ks := rfl
@[simp] theorem dropAction_k (s : State) : (dropAction s).k = s.k := rfl
@[simp] theorem dropAction_rk (s : State) : (dropAction s).rk = s.rk := rfl
@[simp] theorem dropAction_ivr (s : State) : (dropAction s).ivr = s.ivr := rfl
@[simp] theorem dropAction_totalRaw (s : State) : (dropAction s).totalRaw = s.totalRaw := rfl
@[simp] theorem dropAction_monthRaw (s : State) : (dropAction s).monthRaw = s.monthRaw := rfl
@[simp] theorem dropAction_flowTemp (s : State) : (dropAction s).flowTemp = s.flowTemp := rfl
@[simp] theorem dropAction_ambientTemp (s : State) : (dropAction s).ambientTemp = s.ambientTemp := rfl
@[simp] theorem dropAction_readingCi (s : State) : (dropAction s).readingCi = s.readingCi := rfl
@[simp] theorem dropAction_framesRx (s : State) : (dropAction s).framesRx = s.framesRx := rfl
@[simp] theorem dropAction_crcErrs (s : State) : (dropAction s).crcErrs = s.crcErrs := rfl
@[simp] theorem dropAction_mem (s : State) : (dropAction s).mem = s.mem := rfl
@[simp] theorem dropAction_preByte0 (s : State) : (dropAction s).preByte0 = s.preByte0 := rfl
@[simp] theorem dropAction_bodyCnt (s : State) : (dropAction s).bodyCnt = s.bodyCnt := rfl
@[simp] theorem dropAction_ctr (s : State) : (dropAction s).ctr = s.ctr := rfl
@[simp] theorem dropAction_rearmEvents (s : State) : (dropAction s).rearmEvents = s.rearmEvents := rfl
@[simp] theorem dropAction_syncN (s : State) : (dropAction s).syncN = s.syncN := rfl
@[simp] theorem dropAction_rxq (s : State) : (dropAction s).rxq = s.rxq := rfl
@[simp] theorem dropAction_busReads (s : State) : (dropAction s).busReads = s.busReads := rfl
@[simp] theorem dropAction_draws (s : State) : (dropAction s).draws = s.draws := rfl
@[simp] theorem dropAction_agenda (s : State) : (dropAction s).agenda = s.agenda.tail := rfl

/-! `resetBlock`: the reset values of R330, the drawn values, and what a reset does not touch. -/

@[simp] theorem resetBlock_en (s : State) : (resetBlock s).en = false := rfl
@[simp] theorem resetBlock_keyValid (s : State) : (resetBlock s).keyValid = false := rfl
@[simp] theorem resetBlock_idValid (s : State) : (resetBlock s).idValid = false := rfl
@[simp] theorem resetBlock_resValid (s : State) : (resetBlock s).resValid = false := rfl
@[simp] theorem resetBlock_phase (s : State) : (resetBlock s).phase = .off := rfl
@[simp] theorem resetBlock_events (s : State) : (resetBlock s).events = EventBits.clear := rfl
@[simp] theorem resetBlock_irqEn (s : State) : (resetBlock s).irqEn = EventBits.clear := rfl
@[simp] theorem resetBlock_frameResult (s : State) : (resetBlock s).frameResult = .none := rfl
@[simp] theorem resetBlock_cmdResult (s : State) : (resetBlock s).cmdResult = .none := rfl
@[simp] theorem resetBlock_meterId (s : State) : (resetBlock s).meterId = 0#32 := rfl
@[simp] theorem resetBlock_frameLen (s : State) : (resetBlock s).frameLen = 0#8 := rfl
@[simp] theorem resetBlock_calcCrc (s : State) : (resetBlock s).calcCrc = 0#16 := rfl
@[simp] theorem resetBlock_readCrc (s : State) : (resetBlock s).readCrc = 0#16 := rfl
@[simp] theorem resetBlock_ks (s : State) : (resetBlock s).ks = 0#128 := rfl
@[simp] theorem resetBlock_k (s : State) : (resetBlock s).k = 0#128 := rfl
@[simp] theorem resetBlock_rk (s : State) : (resetBlock s).rk = Config.drawnRoundKeys (s.draws + 1) := rfl
@[simp] theorem resetBlock_ivr (s : State) : (resetBlock s).ivr = 0#128 := rfl
@[simp] theorem resetBlock_totalRaw (s : State) : (resetBlock s).totalRaw = 0#32 := rfl
@[simp] theorem resetBlock_monthRaw (s : State) : (resetBlock s).monthRaw = 0#32 := rfl
@[simp] theorem resetBlock_flowTemp (s : State) : (resetBlock s).flowTemp = 0#8 := rfl
@[simp] theorem resetBlock_ambientTemp (s : State) : (resetBlock s).ambientTemp = 0#8 := rfl
@[simp] theorem resetBlock_readingCi (s : State) : (resetBlock s).readingCi = 0#8 := rfl
@[simp] theorem resetBlock_framesRx (s : State) : (resetBlock s).framesRx = 0#32 := rfl
@[simp] theorem resetBlock_crcErrs (s : State) : (resetBlock s).crcErrs = 0#32 := rfl
@[simp] theorem resetBlock_mem (s : State) : (resetBlock s).mem = Memory.drawn (s.draws + 1) := rfl
@[simp] theorem resetBlock_preByte0 (s : State) : (resetBlock s).preByte0 = Config.drawnPreByte0 (s.draws + 1) := rfl
@[simp] theorem resetBlock_bodyCnt (s : State) : (resetBlock s).bodyCnt = 0#6 := rfl
@[simp] theorem resetBlock_ctr (s : State) : (resetBlock s).ctr = Config.drawnCtr (s.draws + 1) := rfl
@[simp] theorem resetBlock_rearmEvents (s : State) : (resetBlock s).rearmEvents = s.rearmEvents := rfl
@[simp] theorem resetBlock_syncN (s : State) : (resetBlock s).syncN = s.syncN := rfl
@[simp] theorem resetBlock_rxq (s : State) : (resetBlock s).rxq = s.rxq := rfl
@[simp] theorem resetBlock_busReads (s : State) : (resetBlock s).busReads = s.busReads := rfl
@[simp] theorem resetBlock_draws (s : State) : (resetBlock s).draws = s.draws + 1 := rfl
@[simp] theorem resetBlock_agenda (s : State) : (resetBlock s).agenda = s.agenda := rfl

end Sys2Proof.Machine
end

