-- ==== Sys2Proof/Laws/Memory.lean ====
section
/-! SUPPORT. Reads and writes of memory, and the canonical form: every memory operation keeps it, and the reset
memory has it. -/

namespace Sys2Proof.Machine

theorem byteAt?_write (m : Memory) (a x : Nat) (v : Byte) :
    Memory.byteAt? (Memory.write m a v) x = if a = x then some v else Memory.byteAt? m x := by
  induction m with
  | nil => simp [Memory.write, Memory.byteAt?]
  | cons c m ih =>
    obtain ⟨b, w⟩ := c
    simp only [Memory.write]
    split
    · rename_i h
      subst h
      by_cases hx : b = x <;> simp [Memory.byteAt?, hx]
    · split
      · by_cases hx : a = x <;> simp [Memory.byteAt?, hx]
      · by_cases hx : b = x
        · have : ¬ a = x := by omega
          simp [Memory.byteAt?, hx, this]
        · simp [Memory.byteAt?, hx, ih]

theorem byteAt_write (m : Memory) (a x : Nat) (v : Byte) :
    Memory.byteAt (Memory.write m a v) x = if a = x then v else Memory.byteAt m x := by
  unfold Memory.byteAt
  rw [byteAt?_write]
  split <;> rfl

/-- What a read sees after a byte sequence was written: the byte written there, or what was there before. -/
theorem byteAt_writeBytes (bs : List Byte) (m : Memory) (a x : Nat) :
    Memory.byteAt (Memory.writeBytes m a bs) x =
      if a ≤ x ∧ x < a + bs.length then bs.getD (x - a) 0#8 else Memory.byteAt m x := by
  induction bs generalizing m a with
  | nil =>
    simp [Memory.writeBytes]
  | cons b bs ih =>
    simp only [Memory.writeBytes, ih, byteAt_write, List.length_cons]
    by_cases h1 : a + 1 ≤ x ∧ x < a + 1 + bs.length
    · have h2 : a ≤ x ∧ x < a + (bs.length + 1) := by omega
      have h3 : x - a = (x - (a + 1)) + 1 := by omega
      simp [h1, h2, h3]
    · by_cases h2 : a = x
      · subst h2
        simp
      · have h3 : ¬ (a ≤ x ∧ x < a + (bs.length + 1)) := by omega
        rw [if_neg h1, if_neg h2, if_neg h3]

/-- Writing an address that has a cell leaves the listed addresses as they are. -/
theorem map_fst_write (m : Memory) (a : Nat) (v : Byte) (hs : (m.map Prod.fst).Pairwise (· < ·))
    (ha : a ∈ m.map Prod.fst) : (Memory.write m a v).map Prod.fst = m.map Prod.fst := by
  induction m with
  | nil => simp at ha
  | cons c m ih =>
    obtain ⟨b, w⟩ := c
    simp only [List.map_cons, List.pairwise_cons, List.mem_cons] at hs ha
    simp only [Memory.write]
    split
    · rename_i h
      simp [h]
    · rename_i h
      have ha' : a ∈ m.map Prod.fst := ha.resolve_left (fun e => h e.symm)
      have hlt := hs.1 a ha'
      rw [if_neg (by omega)]
      simp [ih hs.2 ha']

theorem bufferAddresses_rising : bufferAddresses.Pairwise (· < ·) := List.pairwise_lt_range'

theorem mem_bufferAddresses (a : Nat) : a ∈ bufferAddresses ↔ 0x100 ≤ a ∧ a < 0x170 := by
  simp only [bufferAddresses, Config.frameBase, Config.frameBufBytes, Config.plainBufBytes, List.mem_range'_1]

theorem wf_iff (m : Memory) : Memory.wf m = true ↔ m.map Prod.fst = bufferAddresses := by
  simp [Memory.wf]

/-- Well-formed memory has its addresses strictly rising. -/
theorem wf_rising (m : Memory) (h : Memory.wf m = true) : (m.map Prod.fst).Pairwise (· < ·) := by
  rw [(wf_iff m).1 h]
  exact bufferAddresses_rising

theorem wf_write (m : Memory) (a : Nat) (v : Byte) (h : Memory.wf m = true) (ha : 0x100 ≤ a ∧ a < 0x170) :
    Memory.wf (Memory.write m a v) = true := by
  rw [wf_iff, map_fst_write m a v (wf_rising m h), (wf_iff m).1 h]
  rw [(wf_iff m).1 h]
  exact (mem_bufferAddresses a).2 ha

theorem wf_writeBytes (bs : List Byte) (m : Memory) (a : Nat) (h : Memory.wf m = true)
    (ha : 0x100 ≤ a ∧ a + bs.length ≤ 0x170) : Memory.wf (Memory.writeBytes m a bs) = true := by
  induction bs generalizing m a with
  | nil => exact h
  | cons b bs ih =>
    simp only [List.length_cons] at ha
    exact ih _ _ (wf_write m a b h (by omega)) (by omega)

theorem wf_drawn (r : Nat) : Memory.wf (Memory.drawn r) = true := by
  simp [Memory.wf, Memory.drawn, Function.comp_def]

theorem wf_reset : Memory.wf State.reset.mem = true := wf_drawn 0

/-- With the same addresses, all different, lists that read alike are equal. -/
theorem eq_of_reads_alike (m m' : Memory) (hk : m.map Prod.fst = m'.map Prod.fst)
    (hs : (m.map Prod.fst).Pairwise (· < ·)) (h : ∀ a, Memory.byteAt m a = Memory.byteAt m' a) : m = m' := by
  induction m generalizing m' with
  | nil =>
    cases m' with
    | nil => rfl
    | cons c m' => simp at hk
  | cons c m ih =>
    cases m' with
    | nil => simp at hk
    | cons c' m' =>
      obtain ⟨b, w⟩ := c
      obtain ⟨b', w'⟩ := c'
      simp only [List.map_cons, List.cons.injEq] at hk
      obtain ⟨rfl, hk⟩ := hk
      have hw : w = w' := by simpa [Memory.byteAt, Memory.byteAt?] using h b
      subst hw
      simp only [List.map_cons, List.pairwise_cons] at hs
      have ht : m = m' := by
        refine ih m' hk hs.2 fun a => ?_
        by_cases ha : b = a
        · subst ha
          have absent : ∀ l : Memory, (∀ x ∈ l.map Prod.fst, b < x) → Memory.byteAt l b = 0#8 := by
            intro l
            induction l with
            | nil => intro _; rfl
            | cons c l ihl =>
              obtain ⟨d, v⟩ := c
              intro hl
              have hd := hl d (by simp)
              have : ¬ d = b := by omega
              simp only [Memory.byteAt, Memory.byteAt?, this, if_false]
              exact ihl fun x hx => hl x (by simp only [List.map_cons, List.mem_cons]; exact .inr hx)
          rw [absent m hs.1, absent m' (hk ▸ hs.1)]
        · have := h a
          simpa [Memory.byteAt, Memory.byteAt?, ha] using this
      rw [ht]

/-- The canonical form: two well-formed memories that read alike at every address are equal. -/
theorem wf_ext (m m' : Memory) (hm : Memory.wf m = true) (hm' : Memory.wf m' = true)
    (h : ∀ a, Memory.byteAt m a = Memory.byteAt m' a) : m = m' :=
  eq_of_reads_alike m m' (((wf_iff m).1 hm).trans ((wf_iff m').1 hm').symm) (wf_rising m hm) h

/-! The two buffers through their windows. -/

theorem frameByte_writeFrame (i x : Nat) (bs : List Byte) (s : State) :
    frameByte (writeFrame i bs s) x =
      if i ≤ x ∧ x < i + bs.length then bs.getD (x - i) 0#8 else frameByte s x := by
  have h : (Config.frameBase + i ≤ Config.frameBase + x ∧
      Config.frameBase + x < Config.frameBase + i + bs.length) ↔ (i ≤ x ∧ x < i + bs.length) := by omega
  have h' : Config.frameBase + x - (Config.frameBase + i) = x - i := by omega
  simp only [frameByte, writeFrame_mem, byteAt_writeBytes, h, h']

theorem plainByte_writePlain (i x : Nat) (bs : List Byte) (s : State) :
    plainByte (writePlain i bs s) x =
      if i ≤ x ∧ x < i + bs.length then bs.getD (x - i) 0#8 else plainByte s x := by
  have h : (Config.plainBase + i ≤ Config.plainBase + x ∧
      Config.plainBase + x < Config.plainBase + i + bs.length) ↔ (i ≤ x ∧ x < i + bs.length) := by omega
  have h' : Config.plainBase + x - (Config.plainBase + i) = x - i := by omega
  simp only [plainByte, writePlain_mem, byteAt_writeBytes, h, h']

theorem plainByte_writeFrame (i x : Nat) (bs : List Byte) (s : State) (h : i + bs.length ≤ 64) :
    plainByte (writeFrame i bs s) x = plainByte s x := by
  simp only [plainByte, writeFrame_mem, byteAt_writeBytes, Config.frameBase, Config.plainBase]
  rw [if_neg (by omega)]

theorem frameByte_writePlain (i x : Nat) (bs : List Byte) (s : State) (h : x < 64) :
    frameByte (writePlain i bs s) x = frameByte s x := by
  simp only [frameByte, writePlain_mem, byteAt_writeBytes, Config.frameBase, Config.plainBase]
  rw [if_neg (by omega)]

theorem wf_writeFrame (i : Nat) (bs : List Byte) (s : State) (h : Memory.wf s.mem = true) (hi : i + bs.length ≤ 64) :
    Memory.wf (writeFrame i bs s).mem = true :=
  wf_writeBytes bs _ _ h (by simp only [Config.frameBase]; omega)

theorem wf_writePlain (i : Nat) (bs : List Byte) (s : State) (h : Memory.wf s.mem = true) (hi : i + bs.length ≤ 48) :
    Memory.wf (writePlain i bs s).mem = true :=
  wf_writeBytes bs _ _ h (by simp only [Config.plainBase]; omega)

end Sys2Proof.Machine
end

