-- ==== Sys2Proof/Laws/Command.lean ====
section
/-! SUPPORT. What a command can do: its check, its pseudocode, and nothing else (40_host_commands.md R120, R121). -/

namespace Sys2Proof.Machine

/-- The pseudocode of each command (R122 to R131), as the meanings use it. -/
def commandEffect : Instr → State → State
  | .nop => id
  | .keyLoad => loadKey
  | .start => startCore
  | .stop => stopCore
  | .process => processFrame
  | .deriveIv => stageIv
  | .ctr a n => ctrInPlace a n
  | .crc a n => crcOfPlain a n
  | .aesBlock a => aesInPlace a
  | .softReset => resetBlock

/-- Every meaning is the shared check around its own pseudocode. -/
theorem exec_eq (i : Instr) (s : State) : exec i s = performCommand i (commandEffect i) s := by
  cases i <;> rfl

theorem performCommand_of_ok {i : Instr} {f : State → State} {s : State} (h : checkCommand i s = .ok) :
    performCommand i f s = .next (setCmdResult .ok (f s)) := by
  simp [performCommand, h]

theorem performCommand_of_not_ok {i : Instr} {f : State → State} {s : State} (h : checkCommand i s ≠ .ok) :
    performCommand i f s = .next (failCommand (checkCommand i s) s) := by
  simp [performCommand, h]

/-- What `exec` can answer: a next state, performed or failed. -/
theorem exec_cases {i : Instr} {s : State} {o : Host.Outcome State Fault Refusal} (h : exec i s = o) :
    (checkCommand i s = .ok ∧ o = .next (setCmdResult .ok (commandEffect i s))) ∨
      (checkCommand i s ≠ .ok ∧ o = .next (failCommand (checkCommand i s) s)) := by
  rw [exec_eq] at h
  by_cases hc : checkCommand i s = .ok
  · exact .inl ⟨hc, by rw [← h, performCommand_of_ok hc]⟩
  · exact .inr ⟨hc, by rw [← h, performCommand_of_not_ok hc]⟩

/-- A command passes its check exactly when every condition of R121 holds. -/
theorem checkCommand_ok_iff (i : Instr) (s : State) :
    checkCommand i s = .ok ↔
      (s.en = true → allowedWhileEnabled i = true) ∧ (needsKey i = true → s.keyValid = true) ∧
        (needsIdentity i = true → s.idValid = true) ∧ operandsInRange i = true := by
  unfold checkCommand
  cases s.en <;> cases allowedWhileEnabled i <;> cases needsKey i <;> cases s.keyValid <;>
    cases needsIdentity i <;> cases s.idValid <;> cases operandsInRange i <;> decide

/-! The operand ranges of R121 as plain arithmetic. -/

theorem operandsInRange_ctr (a n : Nat) : operandsInRange (.ctr a n) = true ↔ 1 ≤ n ∧ a + n ≤ 48 :=
  ⟨fun h => of_decide_eq_true h, fun h => decide_eq_true h⟩

theorem operandsInRange_crc (a n : Nat) : operandsInRange (.crc a n) = true ↔ a + n ≤ 48 :=
  ⟨fun h => of_decide_eq_true h, fun h => decide_eq_true h⟩

theorem operandsInRange_aesBlock (a : Nat) : operandsInRange (.aesBlock a) = true ↔ a + 16 ≤ 48 :=
  ⟨fun h => of_decide_eq_true h, fun h => decide_eq_true h⟩

/-- A check never answers NONE or ILLEGAL: those are not its codes (R121). -/
theorem checkCommand_range (i : Instr) (s : State) : checkCommand i s ≠ .none ∧ checkCommand i s ≠ .illegal := by
  unfold checkCommand
  repeat' split
  all_goals decide

/-- A write of CMD: the decoded command, or ILLEGAL (R120, 30_encoding.md R94). -/
theorem writeCommand_cases {w : Word} {s : State} {o : Host.Outcome State Fault Refusal} (h : writeCommand w s = o) :
    (∃ i, decode w = .ok i ∧ exec i s = o) ∨
      (∃ e, decode w = .error e ∧ o = .next (failCommand .illegal s)) := by
  unfold writeCommand at h
  split at h
  · exact .inl ⟨_, by assumption, h⟩
  · exact .inr ⟨_, by assumption, h.symm⟩

/-- Every command answers a next state. -/
theorem exec_next (i : Instr) (s : State) : ∃ t, exec i s = .next t := by
  rcases exec_cases (rfl : exec i s = exec i s) with ⟨-, h⟩ | ⟨-, h⟩ <;> exact ⟨_, h⟩

/-- What STOP can do (R125). -/
theorem stopCore_cases (s : State) :
    (s.en = false ∧ stopCore s = s) ∨
      (s.en = true ∧ midFrame s.phase = true ∧
        stopCore s = setBodyCnt 0#6 (setPhase .off { raiseFrame .aborted s with en := false })) ∨
      (s.en = true ∧ midFrame s.phase = false ∧
        stopCore s = setBodyCnt 0#6 (setPhase .off { s with en := false })) := by
  unfold stopCore
  cases he : s.en <;> cases hm : midFrame s.phase <;> simp

/-- What PROCESS can do (R126). -/
theorem processFrame_cases (s : State) :
    (lenOk s.frameLen.toNat = true ∧ processFrame s = framePass s.frameLen.toNat s) ∨
      (lenOk s.frameLen.toNat = false ∧ processFrame s = raiseFrame .lengthInvalid s) := by
  unfold processFrame
  cases lenOk s.frameLen.toNat <;> simp

end Sys2Proof.Machine
end

