-- ==== Sys2Proof/Laws/Bytes.lean ====
section
/-! SUPPORT. Byte lanes: taking a block or a word apart and putting it together are inverse. -/

namespace Sys2Proof.Machine

theorem extract_append_low {m n : Nat} (x : BitVec m) (y : BitVec n) (start len : Nat) (h : start + len ≤ n) :
    (x ++ y).extractLsb' start len = y.extractLsb' start len := by
  apply BitVec.eq_of_getLsbD_eq
  intro i hi
  have h' : start + i < n := by omega
  simp [BitVec.getLsbD_append, h', hi]

theorem extract_append_high {m n : Nat} (x : BitVec m) (y : BitVec n) (start len : Nat) (h : n ≤ start) :
    (x ++ y).extractLsb' start len = x.extractLsb' (start - n) len := by
  apply BitVec.eq_of_getLsbD_eq
  intro i hi
  have h' : ¬ start + i < n := by omega
  have h'' : start + i - n = start - n + i := by omega
  simp [BitVec.getLsbD_append, h', hi, h'']

theorem extract_self {n : Nat} (x : BitVec n) : x.extractLsb' 0 n = x := by
  apply BitVec.eq_of_getLsbD_eq
  intro i hi
  simp [hi]

/-- Byte `i` of the block made of sixteen bytes is byte `i`. -/
theorem blockByte_blockOfBytes (x : Nat → Byte) (i : Nat) (h : i < 16) : blockByte (blockOfBytes x) i = x i := by
  unfold blockByte blockOfBytes
  interval_cases i <;>
    simp (disch := decide) only [extract_append_low, extract_append_high, Nat.reduceSub, Nat.reduceMul, extract_self]

theorem wordByte_wordOfBytes (x : Nat → Byte) (i : Nat) (h : i < 4) :
    wordByte (wordOfBytes (x 0) (x 1) (x 2) (x 3)) i = x i := by
  unfold wordByte wordOfBytes
  interval_cases i <;>
    simp (disch := decide) only [extract_append_low, extract_append_high, Nat.reduceSub, Nat.reduceMul, extract_self]

theorem blockWord_blockOfWords (x : Nat → Word) (i : Nat) (h : i < 4) :
    blockWord (blockOfWords (x 0) (x 1) (x 2) (x 3)) i = x i := by
  unfold blockWord blockOfWords
  interval_cases i <;>
    simp (disch := decide) only [extract_append_low, extract_append_high, Nat.reduceSub, Nat.reduceMul, extract_self]

/-- Word `i` of a register file after a write of word `j`. -/
theorem blockWord_setBlockWord (b : Block) (i j : Nat) (v : Word) (h : i < 4) :
    blockWord (setBlockWord b j v) i = if j = i then v else blockWord b i := by
  have e := blockWord_blockOfWords (fun x => if j = x then v else blockWord b x) i h
  simpa [setBlockWord] using e

/-- Word `j` of a block is its bytes `4j` to `4j+3`. -/
theorem blockWord_bytes (b : Block) (j : Nat) (h : j < 4) :
    blockWord b j = wordOfBytes (blockByte b (4 * j)) (blockByte b (4 * j + 1)) (blockByte b (4 * j + 2))
      (blockByte b (4 * j + 3)) := by
  apply BitVec.eq_of_getLsbD_eq
  intro i hi
  simp only [wordOfBytes, blockWord, blockByte, BitVec.getLsbD_append, BitVec.getLsbD_extractLsb']
  interval_cases j <;> interval_cases i <;> simp

/-- A byte of a block is a byte of one of its words. -/
theorem blockByte_eq_wordByte (b : Block) (i : Nat) (h : i < 16) :
    blockByte b i = wordByte (blockWord b (i / 4)) (i % 4) := by
  apply BitVec.eq_of_getLsbD_eq
  intro n hn
  simp only [blockByte, wordByte, blockWord, BitVec.getLsbD_extractLsb', hn, decide_true, Bool.true_and]
  have h1 : 8 * (3 - i % 4) + n < 32 := by omega
  have h2 : 32 * (3 - i / 4) + (8 * (3 - i % 4) + n) = 8 * (15 - i) + n := by omega
  simp [h1, h2]

/-- Writing word `j` writes bytes `4j` to `4j+3` and no other. -/
theorem blockByte_setBlockWord (b : Block) (v : Word) (i j : Nat) (h : i < 16) :
    blockByte (setBlockWord b j v) i =
      if 4 * j ≤ i ∧ i < 4 * j + 4 then wordByte v (i - 4 * j) else blockByte b i := by
  rw [blockByte_eq_wordByte _ i h, blockWord_setBlockWord _ _ _ _ (by omega), blockByte_eq_wordByte b i h]
  by_cases e : j = i / 4
  · rw [if_pos e, if_pos (by omega), show i - 4 * j = i % 4 by omega]
  · rw [if_neg e, if_neg (by omega)]

/-- A word is its four bytes. -/
theorem wordOfBytes_wordByte (w : Word) : wordOfBytes (wordByte w 0) (wordByte w 1) (wordByte w 2) (wordByte w 3) = w := by
  apply BitVec.eq_of_getLsbD_eq
  intro i hi
  unfold wordOfBytes wordByte
  interval_cases i <;> simp only [BitVec.getLsbD_append, BitVec.getLsbD_extractLsb'] <;> simp

@[simp] theorem blockBytes_length (b : Block) : (blockBytes b).length = 16 := by simp [blockBytes]

theorem blockBytes_getD (b : Block) (j : Nat) (h : j < 16) : (blockBytes b).getD j 0#8 = blockByte b j := by
  simp [blockBytes, h]

@[simp] theorem wordBytes_length (w : Word) : (wordBytes w).length = 4 := rfl

@[simp] theorem slice_length (x : Nat → Byte) (a n : Nat) : (slice x a n).length = n := by simp [slice]

theorem slice_getD (x : Nat → Byte) (a n j : Nat) (h : j < n) : (slice x a n).getD j 0#8 = x (a + j) := by
  simp [slice, h]

/-- A slice depends on the bytes it names only. -/
theorem slice_congr (x y : Nat → Byte) (a b n : Nat) (h : ∀ j < n, x (a + j) = y (b + j)) :
    slice x a n = slice y b n := by
  unfold slice
  apply List.map_congr_left
  intro j hj
  exact h j (List.mem_range.1 hj)

/-! The AES transformations byte by byte (43_aes128.md R215 to R218). -/

theorem stateByte_stateOf (f : Nat → Nat → Byte) (r c : Nat) (hr : r < 4) (hc : c < 4) :
    stateByte (stateOf f) r c = f r c := by
  unfold stateByte stateOf
  rw [blockByte_blockOfBytes _ _ (by omega)]
  congr 1 <;> omega

theorem blockByte_xor (x y : Block) (i : Nat) : blockByte (x ^^^ y) i = blockByte x i ^^^ blockByte y i := by
  apply BitVec.eq_of_getLsbD_eq
  intro j hj
  simp [blockByte, hj]

end Sys2Proof.Machine
end

