-- ==== Sys2Proof/Laws/Decryptor.lean ====
section
/-! SUPPORT. The counter mode, block by block (42_decryptor.md R197, R198). -/

namespace Sys2Proof.Machine

theorem xorKeystream_length (d : List Byte) (ks : Block) : (xorKeystream d ks).length = min d.length 16 := by
  simp [xorKeystream]

theorem ctrBlocks_length (rk : Vector Block 11) (m : Nat) (d : List Byte) (c : Block) :
    (ctrBlocks rk m d c).1.length = min d.length (16 * m) := by
  induction m generalizing d c with
  | zero => simp [ctrBlocks]
  | succ m ih =>
    simp only [ctrBlocks, List.length_append, xorKeystream_length, List.length_take, ih, List.length_drop]
    omega

/-- The output has as many bytes as the input (R200 c). -/
@[simp] theorem ctrXor_length (d : List Byte) (iv : Block) (rk : Vector Block 11) :
    (ctrXor d iv rk).1.length = d.length := by
  simp only [ctrXor, ctrBlocks_length]
  omega

theorem incCounter_add (c : Block) (m : Nat) :
    incCounter c + BitVec.ofNat 128 m = c + BitVec.ofNat 128 (m + 1) := by
  rw [incCounter, BitVec.ofNat_add, BitVec.add_assoc, BitVec.add_comm 1#128]

/-- The counter after `m` blocks. -/
theorem ctrBlocks_counter (rk : Vector Block 11) (m : Nat) (d : List Byte) (c : Block) :
    (ctrBlocks rk m d c).2 = c + BitVec.ofNat 128 m := by
  induction m generalizing d c with
  | zero => simp [ctrBlocks]
  | succ m ih =>
    simp only [ctrBlocks, ih, incCounter_add]

theorem xorKeystream_getD (d : List Byte) (ks : Block) (j : Nat) (hd : j < d.length) (hj : j < 16) :
    (xorKeystream d ks).getD j 0#8 = d.getD j 0#8 ^^^ blockByte ks j := by
  have h1 : j < (xorKeystream d ks).length := by rw [xorKeystream_length]; omega
  rw [List.getD_eq_getElem _ _ h1, List.getD_eq_getElem _ _ hd]
  simp [xorKeystream, blockBytes]

/-- Byte `j` of the output is byte `j` of the input xor byte `j mod 16` of keystream block `j / 16`. -/
theorem ctrBlocks_getD (rk : Vector Block 11) (m : Nat) (d : List Byte) (c : Block) (j : Nat) (hd : j < d.length)
    (hm : j < 16 * m) :
    (ctrBlocks rk m d c).1.getD j 0#8 =
      d.getD j 0#8 ^^^ blockByte (aesEncrypt (c + BitVec.ofNat 128 (j / 16)) rk) (j % 16) := by
  induction m generalizing d c j with
  | zero => omega
  | succ m ih =>
    simp only [ctrBlocks]
    by_cases hj : j < 16
    · have hl : j < (xorKeystream (d.take 16) (aesEncrypt c rk)).length := by
        rw [xorKeystream_length, List.length_take]; omega
      have h0 : j / 16 = 0 := by omega
      have h1 : j % 16 = j := by omega
      rw [List.getD_append _ _ _ _ hl, xorKeystream_getD _ _ _ (by rw [List.length_take]; omega) hj, h0, h1]
      simp [List.getD_eq_getElem?_getD, hj]
    · have hl : (xorKeystream (d.take 16) (aesEncrypt c rk)).length = 16 := by
        rw [xorKeystream_length, List.length_take]; omega
      have h0 : j / 16 = (j - 16) / 16 + 1 := by omega
      have h1 : j % 16 = (j - 16) % 16 := by omega
      have h2 : 16 + (j - 16) = j := by omega
      rw [List.getD_append_right _ _ _ _ (by omega), hl,
        ih (d.drop 16) (incCounter c) (j - 16) (by rw [List.length_drop]; omega) (by omega), h0, h1]
      simp only [incCounter_add, List.getD_eq_getElem?_getD, List.getElem?_drop, h2]

end Sys2Proof.Machine
end

