-- ==== Sys2Proof/Laws/FramePass.lean ====
section
/-! SUPPORT. Everything a frame pass can do (45_parser.md R270, R271). -/

namespace Sys2Proof.Machine

/-! The conditions of the stages as plain arithmetic. -/

theorem lenOk_iff (l : Nat) : lenOk l = true ↔ 18 ≤ l ∧ l ≤ 63 := by
  constructor
  · intro h
    have := of_decide_eq_true h
    simp only [Config.lMin, Config.lLimit] at this
    omega
  · intro h
    exact decide_eq_true (by simp only [Config.lMin, Config.lLimit]; omega)

theorem lenOk_eq_false_iff (l : Nat) : lenOk l = false ↔ l < 18 ∨ 63 < l := by
  rw [← Bool.not_eq_true, lenOk_iff]
  omega

theorem cipherLength_eq (l : Nat) : cipherLength l = l - 18 := rfl

theorem cipherLengthBad_iff (cl : Nat) : cipherLengthBad cl = true ↔ cl = 0 ∨ 48 < cl := by
  constructor
  · intro h
    have := of_decide_eq_true h
    simpa only [Config.plainBufBytes] using this
  · intro h
    exact decide_eq_true (by simpa only [Config.plainBufBytes] using h)

theorem cipherLengthBad_eq_false_iff (cl : Nat) : cipherLengthBad cl = false ↔ 1 ≤ cl ∧ cl ≤ 48 := by
  rw [← Bool.not_eq_true, cipherLengthBad_iff]
  omega

/-- The state a pass has after the CTR stage: IV and plaintext written. -/
def decrypted (cl : Nat) (s : State) : State := stageCtr cl (stageIv s)

/-- The state a pass has after the integrity computation: `CRC_VAL` written too. -/
def checked (cl : Nat) (s : State) : State := stageCrc cl (decrypted cl s)

/-! What the CTR stage and the integrity computation leave as it was. -/

@[simp] theorem decrypted_en (cl : Nat) (s : State) : (decrypted cl s).en = s.en := by
  simp [decrypted, stageCtr, stageIv]

@[simp] theorem decrypted_keyValid (cl : Nat) (s : State) : (decrypted cl s).keyValid = s.keyValid := by
  simp [decrypted, stageCtr, stageIv]

@[simp] theorem decrypted_idValid (cl : Nat) (s : State) : (decrypted cl s).idValid = s.idValid := by
  simp [decrypted, stageCtr, stageIv]

@[simp] theorem decrypted_resValid (cl : Nat) (s : State) : (decrypted cl s).resValid = s.resValid := by
  simp [decrypted, stageCtr, stageIv]

@[simp] theorem decrypted_phase (cl : Nat) (s : State) : (decrypted cl s).phase = s.phase := by
  simp [decrypted, stageCtr, stageIv]

@[simp] theorem decrypted_events (cl : Nat) (s : State) : (decrypted cl s).events = s.events := by
  simp [decrypted, stageCtr, stageIv]

@[simp] theorem decrypted_irqEn (cl : Nat) (s : State) : (decrypted cl s).irqEn = s.irqEn := by
  simp [decrypted, stageCtr, stageIv]

@[simp] theorem decrypted_frameResult (cl : Nat) (s : State) : (decrypted cl s).frameResult = s.frameResult := by
  simp [decrypted, stageCtr, stageIv]

@[simp] theorem decrypted_cmdResult (cl : Nat) (s : State) : (decrypted cl s).cmdResult = s.cmdResult := by
  simp [decrypted, stageCtr, stageIv]

@[simp] theorem decrypted_meterId (cl : Nat) (s : State) : (decrypted cl s).meterId = s.meterId := by
  simp [decrypted, stageCtr, stageIv]

@[simp] theorem decrypted_frameLen (cl : Nat) (s : State) : (decrypted cl s).frameLen = s.frameLen := by
  simp [decrypted, stageCtr, stageIv]

@[simp] theorem decrypted_calcCrc (cl : Nat) (s : State) : (decrypted cl s).calcCrc = s.calcCrc := by
  simp [decrypted, stageCtr, stageIv]

@[simp] theorem decrypted_readCrc (cl : Nat) (s : State) : (decrypted cl s).readCrc = s.readCrc := by
  simp [decrypted, stageCtr, stageIv]

@[simp] theorem decrypted_ks (cl : Nat) (s : State) : (decrypted cl s).ks = s.ks := by
  simp [decrypted, stageCtr, stageIv]

@[simp] theorem decrypted_k (cl : Nat) (s : State) : (decrypted cl s).k = s.k := by
  simp [decrypted, stageCtr, stageIv]

@[simp] theorem decrypted_rk (cl : Nat) (s : State) : (decrypted cl s).rk = s.rk := by
  simp [decrypted, stageCtr, stageIv]

@[simp] theorem decrypted_totalRaw (cl : Nat) (s : State) : (decrypted cl s).totalRaw = s.totalRaw := by
  simp [decrypted, stageCtr, stageIv]

@[simp] theorem decrypted_monthRaw (cl : Nat) (s : State) : (decrypted cl s).monthRaw = s.monthRaw := by
  simp [decrypted, stageCtr, stageIv]

@[simp] theorem decrypted_flowTemp (cl : Nat) (s : State) : (decrypted cl s).flowTemp = s.flowTemp := by
  simp [decrypted, stageCtr, stageIv]

@[simp] theorem decrypted_ambientTemp (cl : Nat) (s : State) : (decrypted cl s).ambientTemp = s.ambientTemp := by
  simp [decrypted, stageCtr, stageIv]

@[simp] theorem decrypted_readingCi (cl : Nat) (s : State) : (decrypted cl s).readingCi = s.readingCi := by
  simp [decrypted, stageCtr, stageIv]

@[simp] theorem decrypted_framesRx (cl : Nat) (s : State) : (decrypted cl s).framesRx = s.framesRx := by
  simp [decrypted, stageCtr, stageIv]

@[simp] theorem decrypted_crcErrs (cl : Nat) (s : State) : (decrypted cl s).crcErrs = s.crcErrs := by
  simp [decrypted, stageCtr, stageIv]

@[simp] theorem decrypted_preByte0 (cl : Nat) (s : State) : (decrypted cl s).preByte0 = s.preByte0 := by
  simp [decrypted, stageCtr, stageIv]

@[simp] theorem decrypted_bodyCnt (cl : Nat) (s : State) : (decrypted cl s).bodyCnt = s.bodyCnt := by
  simp [decrypted, stageCtr, stageIv]

@[simp] theorem decrypted_rearmEvents (cl : Nat) (s : State) : (decrypted cl s).rearmEvents = s.rearmEvents := by
  simp [decrypted, stageCtr, stageIv]

@[simp] theorem decrypted_syncN (cl : Nat) (s : State) : (decrypted cl s).syncN = s.syncN := by
  simp [decrypted, stageCtr, stageIv]

@[simp] theorem decrypted_rxq (cl : Nat) (s : State) : (decrypted cl s).rxq = s.rxq := by
  simp [decrypted, stageCtr, stageIv]

@[simp] theorem decrypted_busReads (cl : Nat) (s : State) : (decrypted cl s).busReads = s.busReads := by
  simp [decrypted, stageCtr, stageIv]

@[simp] theorem decrypted_draws (cl : Nat) (s : State) : (decrypted cl s).draws = s.draws := by
  simp [decrypted, stageCtr, stageIv]

@[simp] theorem decrypted_agenda (cl : Nat) (s : State) : (decrypted cl s).agenda = s.agenda := by
  simp [decrypted, stageCtr, stageIv]

@[simp] theorem checked_en (cl : Nat) (s : State) : (checked cl s).en = s.en := by
  simp [checked, stageCrc]

@[simp] theorem checked_keyValid (cl : Nat) (s : State) : (checked cl s).keyValid = s.keyValid := by
  simp [checked, stageCrc]

@[simp] theorem checked_idValid (cl : Nat) (s : State) : (checked cl s).idValid = s.idValid := by
  simp [checked, stageCrc]

@[simp] theorem checked_resValid (cl : Nat) (s : State) : (checked cl s).resValid = s.resValid := by
  simp [checked, stageCrc]

@[simp] theorem checked_phase (cl : Nat) (s : State) : (checked cl s).phase = s.phase := by
  simp [checked, stageCrc]

@[simp] theorem checked_events (cl : Nat) (s : State) : (checked cl s).events = s.events := by
  simp [checked, stageCrc]

@[simp] theorem checked_irqEn (cl : Nat) (s : State) : (checked cl s).irqEn = s.irqEn := by
  simp [checked, stageCrc]

@[simp] theorem checked_frameResult (cl : Nat) (s : State) : (checked cl s).frameResult = s.frameResult := by
  simp [checked, stageCrc]

@[simp] theorem checked_cmdResult (cl : Nat) (s : State) : (checked cl s).cmdResult = s.cmdResult := by
  simp [checked, stageCrc]

@[simp] theorem checked_meterId (cl : Nat) (s : State) : (checked cl s).meterId = s.meterId := by
  simp [checked, stageCrc]

@[simp] theorem checked_frameLen (cl : Nat) (s : State) : (checked cl s).frameLen = s.frameLen := by
  simp [checked, stageCrc]

@[simp] theorem checked_ks (cl : Nat) (s : State) : (checked cl s).ks = s.ks := by
  simp [checked, stageCrc]

@[simp] theorem checked_k (cl : Nat) (s : State) : (checked cl s).k = s.k := by
  simp [checked, stageCrc]

@[simp] theorem checked_rk (cl : Nat) (s : State) : (checked cl s).rk = s.rk := by
  simp [checked, stageCrc]

@[simp] theorem checked_ivr (cl : Nat) (s : State) : (checked cl s).ivr = (decrypted cl s).ivr := by
  simp [checked, stageCrc]

@[simp] theorem checked_totalRaw (cl : Nat) (s : State) : (checked cl s).totalRaw = s.totalRaw := by
  simp [checked, stageCrc]

@[simp] theorem checked_monthRaw (cl : Nat) (s : State) : (checked cl s).monthRaw = s.monthRaw := by
  simp [checked, stageCrc]

@[simp] theorem checked_flowTemp (cl : Nat) (s : State) : (checked cl s).flowTemp = s.flowTemp := by
  simp [checked, stageCrc]

@[simp] theorem checked_ambientTemp (cl : Nat) (s : State) : (checked cl s).ambientTemp = s.ambientTemp := by
  simp [checked, stageCrc]

@[simp] theorem checked_readingCi (cl : Nat) (s : State) : (checked cl s).readingCi = s.readingCi := by
  simp [checked, stageCrc]

@[simp] theorem checked_framesRx (cl : Nat) (s : State) : (checked cl s).framesRx = s.framesRx := by
  simp [checked, stageCrc]

@[simp] theorem checked_crcErrs (cl : Nat) (s : State) : (checked cl s).crcErrs = s.crcErrs := by
  simp [checked, stageCrc]

@[simp] theorem checked_mem (cl : Nat) (s : State) : (checked cl s).mem = (decrypted cl s).mem := by
  simp [checked, stageCrc]

@[simp] theorem checked_preByte0 (cl : Nat) (s : State) : (checked cl s).preByte0 = s.preByte0 := by
  simp [checked, stageCrc]

@[simp] theorem checked_bodyCnt (cl : Nat) (s : State) : (checked cl s).bodyCnt = s.bodyCnt := by
  simp [checked, stageCrc]

@[simp] theorem checked_ctr (cl : Nat) (s : State) : (checked cl s).ctr = (decrypted cl s).ctr := by
  simp [checked, stageCrc]

@[simp] theorem checked_rearmEvents (cl : Nat) (s : State) : (checked cl s).rearmEvents = s.rearmEvents := by
  simp [checked, stageCrc]

@[simp] theorem checked_syncN (cl : Nat) (s : State) : (checked cl s).syncN = s.syncN := by
  simp [checked, stageCrc]

@[simp] theorem checked_rxq (cl : Nat) (s : State) : (checked cl s).rxq = s.rxq := by
  simp [checked, stageCrc]

@[simp] theorem checked_busReads (cl : Nat) (s : State) : (checked cl s).busReads = s.busReads := by
  simp [checked, stageCrc]

@[simp] theorem checked_draws (cl : Nat) (s : State) : (checked cl s).draws = s.draws := by
  simp [checked, stageCrc]

@[simp] theorem checked_agenda (cl : Nat) (s : State) : (checked cl s).agenda = s.agenda := by
  simp [checked, stageCrc]

/-- The ways a pass can end, in the order of R270, each with its condition. -/
inductive PassEnd (l : Nat) (s t : State) : Prop
  | addressMiss (h : addrMatch s = false) (e : t = raiseFrame .addressMiss s)
  | cipherLength (h : addrMatch s = true) (hc : cipherLengthBad (cipherLength l) = true)
    (e : t = raiseFrame .cipherLength s)
  | noCrc (h : addrMatch s = true) (hc : cipherLengthBad (cipherLength l) = false) (h2 : cipherLength l < 2)
    (e : t = raiseFrame .payloadShort (decrypted (cipherLength l) s))
  | crcMismatch (h : addrMatch s = true) (hc : cipherLengthBad (cipherLength l) = false) (h2 : ¬ cipherLength l < 2)
    (hm : (checked (cipherLength l) s).readCrc ≠ (checked (cipherLength l) s).calcCrc)
    (e : t = raiseFrame .crcMismatch (countCrcError (checked (cipherLength l) s)))
  | noCi (h : addrMatch s = true) (hc : cipherLengthBad (cipherLength l) = false) (h2 : ¬ cipherLength l < 2)
    (hm : (checked (cipherLength l) s).readCrc = (checked (cipherLength l) s).calcCrc) (h3 : cipherLength l < 3)
    (e : t = raiseFrame .payloadShort (checked (cipherLength l) s))
  | unknownCi (h : addrMatch s = true) (hc : cipherLengthBad (cipherLength l) = false) (h2 : ¬ cipherLength l < 2)
    (hm : (checked (cipherLength l) s).readCrc = (checked (cipherLength l) s).calcCrc) (h3 : ¬ cipherLength l < 3)
    (hi : layoutOfCi (ciByte (checked (cipherLength l) s)) = none)
    (e : t = raiseFrame .unknownCi (checked (cipherLength l) s))
  | tooShort (lay : Layout) (h : addrMatch s = true) (hc : cipherLengthBad (cipherLength l) = false)
    (h2 : ¬ cipherLength l < 2)
    (hm : (checked (cipherLength l) s).readCrc = (checked (cipherLength l) s).calcCrc) (h3 : ¬ cipherLength l < 3)
    (hi : layoutOfCi (ciByte (checked (cipherLength l) s)) = some lay)
    (hl : cipherLength l < (layoutOffsets lay).minLength)
    (e : t = raiseFrame .payloadShort (checked (cipherLength l) s))
  | commit (lay : Layout) (h : addrMatch s = true) (hc : cipherLengthBad (cipherLength l) = false)
    (h2 : ¬ cipherLength l < 2)
    (hm : (checked (cipherLength l) s).readCrc = (checked (cipherLength l) s).calcCrc) (h3 : ¬ cipherLength l < 3)
    (hi : layoutOfCi (ciByte (checked (cipherLength l) s)) = some lay)
    (hl : ¬ cipherLength l < (layoutOffsets lay).minLength)
    (e : t = commitReading (layoutOffsets lay) (checked (cipherLength l) s))

/-- Every pass ends in exactly one of those ways: the inversion lemma of `framePass`. -/
theorem framePass_cases (l : Nat) (s : State) : PassEnd l s (framePass l s) := by
  unfold framePass
  split
  · rename_i h
    unfold passDecrypt
    split
    · rename_i hc
      exact .cipherLength h hc rfl
    · rename_i hc
      rw [Bool.not_eq_true] at hc
      unfold passIntegrity
      split
      · exact .noCrc h hc ‹_› rfl
      · unfold passCompare
        split
        · rename_i h2 hm
          unfold passParse
          split
          · exact .noCi h hc h2 hm ‹_› rfl
          · split
            · exact .unknownCi h hc h2 hm ‹_› ‹_› rfl
            · unfold passLayout
              split
              · exact .tooShort _ h hc h2 hm ‹_› ‹_› ‹_› rfl
              · exact .commit _ h hc h2 hm ‹_› ‹_› ‹_› rfl
        · exact .crcMismatch h hc ‹_› ‹_› rfl
  · rename_i h
    rw [Bool.not_eq_true] at h
    exact .addressMiss h rfl

/-! What no pass changes (R271, 45_parser.md R270). -/

@[simp] theorem framePass_en (l : Nat) (s : State) : (framePass l s).en = s.en := by
  have e := framePass_cases l s
  rcases e with ⟨_, e⟩ | ⟨_, _, e⟩ | ⟨_, _, _, e⟩ | ⟨_, _, _, _, e⟩ | ⟨_, _, _, _, _, e⟩ | ⟨_, _, _, _, _, _, e⟩ |
    ⟨_, _, _, _, _, _, _, _, e⟩ | ⟨_, _, _, _, _, _, _, _, e⟩ <;> rw [e] <;> simp [commitReading]

@[simp] theorem framePass_keyValid (l : Nat) (s : State) : (framePass l s).keyValid = s.keyValid := by
  have e := framePass_cases l s
  rcases e with ⟨_, e⟩ | ⟨_, _, e⟩ | ⟨_, _, _, e⟩ | ⟨_, _, _, _, e⟩ | ⟨_, _, _, _, _, e⟩ | ⟨_, _, _, _, _, _, e⟩ |
    ⟨_, _, _, _, _, _, _, _, e⟩ | ⟨_, _, _, _, _, _, _, _, e⟩ <;> rw [e] <;> simp [commitReading]

@[simp] theorem framePass_idValid (l : Nat) (s : State) : (framePass l s).idValid = s.idValid := by
  have e := framePass_cases l s
  rcases e with ⟨_, e⟩ | ⟨_, _, e⟩ | ⟨_, _, _, e⟩ | ⟨_, _, _, _, e⟩ | ⟨_, _, _, _, _, e⟩ | ⟨_, _, _, _, _, _, e⟩ |
    ⟨_, _, _, _, _, _, _, _, e⟩ | ⟨_, _, _, _, _, _, _, _, e⟩ <;> rw [e] <;> simp [commitReading]

@[simp] theorem framePass_phase (l : Nat) (s : State) : (framePass l s).phase = s.phase := by
  have e := framePass_cases l s
  rcases e with ⟨_, e⟩ | ⟨_, _, e⟩ | ⟨_, _, _, e⟩ | ⟨_, _, _, _, e⟩ | ⟨_, _, _, _, _, e⟩ | ⟨_, _, _, _, _, _, e⟩ |
    ⟨_, _, _, _, _, _, _, _, e⟩ | ⟨_, _, _, _, _, _, _, _, e⟩ <;> rw [e] <;> simp [commitReading]

@[simp] theorem framePass_irqEn (l : Nat) (s : State) : (framePass l s).irqEn = s.irqEn := by
  have e := framePass_cases l s
  rcases e with ⟨_, e⟩ | ⟨_, _, e⟩ | ⟨_, _, _, e⟩ | ⟨_, _, _, _, e⟩ | ⟨_, _, _, _, _, e⟩ | ⟨_, _, _, _, _, _, e⟩ |
    ⟨_, _, _, _, _, _, _, _, e⟩ | ⟨_, _, _, _, _, _, _, _, e⟩ <;> rw [e] <;> simp [commitReading]

@[simp] theorem framePass_cmdResult (l : Nat) (s : State) : (framePass l s).cmdResult = s.cmdResult := by
  have e := framePass_cases l s
  rcases e with ⟨_, e⟩ | ⟨_, _, e⟩ | ⟨_, _, _, e⟩ | ⟨_, _, _, _, e⟩ | ⟨_, _, _, _, _, e⟩ | ⟨_, _, _, _, _, _, e⟩ |
    ⟨_, _, _, _, _, _, _, _, e⟩ | ⟨_, _, _, _, _, _, _, _, e⟩ <;> rw [e] <;> simp [commitReading]

@[simp] theorem framePass_meterId (l : Nat) (s : State) : (framePass l s).meterId = s.meterId := by
  have e := framePass_cases l s
  rcases e with ⟨_, e⟩ | ⟨_, _, e⟩ | ⟨_, _, _, e⟩ | ⟨_, _, _, _, e⟩ | ⟨_, _, _, _, _, e⟩ | ⟨_, _, _, _, _, _, e⟩ |
    ⟨_, _, _, _, _, _, _, _, e⟩ | ⟨_, _, _, _, _, _, _, _, e⟩ <;> rw [e] <;> simp [commitReading]

@[simp] theorem framePass_frameLen (l : Nat) (s : State) : (framePass l s).frameLen = s.frameLen := by
  have e := framePass_cases l s
  rcases e with ⟨_, e⟩ | ⟨_, _, e⟩ | ⟨_, _, _, e⟩ | ⟨_, _, _, _, e⟩ | ⟨_, _, _, _, _, e⟩ | ⟨_, _, _, _, _, _, e⟩ |
    ⟨_, _, _, _, _, _, _, _, e⟩ | ⟨_, _, _, _, _, _, _, _, e⟩ <;> rw [e] <;> simp [commitReading]

@[simp] theorem framePass_ks (l : Nat) (s : State) : (framePass l s).ks = s.ks := by
  have e := framePass_cases l s
  rcases e with ⟨_, e⟩ | ⟨_, _, e⟩ | ⟨_, _, _, e⟩ | ⟨_, _, _, _, e⟩ | ⟨_, _, _, _, _, e⟩ | ⟨_, _, _, _, _, _, e⟩ |
    ⟨_, _, _, _, _, _, _, _, e⟩ | ⟨_, _, _, _, _, _, _, _, e⟩ <;> rw [e] <;> simp [commitReading]

@[simp] theorem framePass_k (l : Nat) (s : State) : (framePass l s).k = s.k := by
  have e := framePass_cases l s
  rcases e with ⟨_, e⟩ | ⟨_, _, e⟩ | ⟨_, _, _, e⟩ | ⟨_, _, _, _, e⟩ | ⟨_, _, _, _, _, e⟩ | ⟨_, _, _, _, _, _, e⟩ |
    ⟨_, _, _, _, _, _, _, _, e⟩ | ⟨_, _, _, _, _, _, _, _, e⟩ <;> rw [e] <;> simp [commitReading]

@[simp] theorem framePass_rk (l : Nat) (s : State) : (framePass l s).rk = s.rk := by
  have e := framePass_cases l s
  rcases e with ⟨_, e⟩ | ⟨_, _, e⟩ | ⟨_, _, _, e⟩ | ⟨_, _, _, _, e⟩ | ⟨_, _, _, _, _, e⟩ | ⟨_, _, _, _, _, _, e⟩ |
    ⟨_, _, _, _, _, _, _, _, e⟩ | ⟨_, _, _, _, _, _, _, _, e⟩ <;> rw [e] <;> simp [commitReading]

@[simp] theorem framePass_framesRx (l : Nat) (s : State) : (framePass l s).framesRx = s.framesRx := by
  have e := framePass_cases l s
  rcases e with ⟨_, e⟩ | ⟨_, _, e⟩ | ⟨_, _, _, e⟩ | ⟨_, _, _, _, e⟩ | ⟨_, _, _, _, _, e⟩ | ⟨_, _, _, _, _, _, e⟩ |
    ⟨_, _, _, _, _, _, _, _, e⟩ | ⟨_, _, _, _, _, _, _, _, e⟩ <;> rw [e] <;> simp [commitReading]

@[simp] theorem framePass_preByte0 (l : Nat) (s : State) : (framePass l s).preByte0 = s.preByte0 := by
  have e := framePass_cases l s
  rcases e with ⟨_, e⟩ | ⟨_, _, e⟩ | ⟨_, _, _, e⟩ | ⟨_, _, _, _, e⟩ | ⟨_, _, _, _, _, e⟩ | ⟨_, _, _, _, _, _, e⟩ |
    ⟨_, _, _, _, _, _, _, _, e⟩ | ⟨_, _, _, _, _, _, _, _, e⟩ <;> rw [e] <;> simp [commitReading]

@[simp] theorem framePass_bodyCnt (l : Nat) (s : State) : (framePass l s).bodyCnt = s.bodyCnt := by
  have e := framePass_cases l s
  rcases e with ⟨_, e⟩ | ⟨_, _, e⟩ | ⟨_, _, _, e⟩ | ⟨_, _, _, _, e⟩ | ⟨_, _, _, _, _, e⟩ | ⟨_, _, _, _, _, _, e⟩ |
    ⟨_, _, _, _, _, _, _, _, e⟩ | ⟨_, _, _, _, _, _, _, _, e⟩ <;> rw [e] <;> simp [commitReading]

@[simp] theorem framePass_rearmEvents (l : Nat) (s : State) : (framePass l s).rearmEvents = s.rearmEvents := by
  have e := framePass_cases l s
  rcases e with ⟨_, e⟩ | ⟨_, _, e⟩ | ⟨_, _, _, e⟩ | ⟨_, _, _, _, e⟩ | ⟨_, _, _, _, _, e⟩ | ⟨_, _, _, _, _, _, e⟩ |
    ⟨_, _, _, _, _, _, _, _, e⟩ | ⟨_, _, _, _, _, _, _, _, e⟩ <;> rw [e] <;> simp [commitReading]

@[simp] theorem framePass_syncN (l : Nat) (s : State) : (framePass l s).syncN = s.syncN := by
  have e := framePass_cases l s
  rcases e with ⟨_, e⟩ | ⟨_, _, e⟩ | ⟨_, _, _, e⟩ | ⟨_, _, _, _, e⟩ | ⟨_, _, _, _, _, e⟩ | ⟨_, _, _, _, _, _, e⟩ |
    ⟨_, _, _, _, _, _, _, _, e⟩ | ⟨_, _, _, _, _, _, _, _, e⟩ <;> rw [e] <;> simp [commitReading]

@[simp] theorem framePass_rxq (l : Nat) (s : State) : (framePass l s).rxq = s.rxq := by
  have e := framePass_cases l s
  rcases e with ⟨_, e⟩ | ⟨_, _, e⟩ | ⟨_, _, _, e⟩ | ⟨_, _, _, _, e⟩ | ⟨_, _, _, _, _, e⟩ | ⟨_, _, _, _, _, _, e⟩ |
    ⟨_, _, _, _, _, _, _, _, e⟩ | ⟨_, _, _, _, _, _, _, _, e⟩ <;> rw [e] <;> simp [commitReading]

@[simp] theorem framePass_busReads (l : Nat) (s : State) : (framePass l s).busReads = s.busReads := by
  have e := framePass_cases l s
  rcases e with ⟨_, e⟩ | ⟨_, _, e⟩ | ⟨_, _, _, e⟩ | ⟨_, _, _, _, e⟩ | ⟨_, _, _, _, _, e⟩ | ⟨_, _, _, _, _, _, e⟩ |
    ⟨_, _, _, _, _, _, _, _, e⟩ | ⟨_, _, _, _, _, _, _, _, e⟩ <;> rw [e] <;> simp [commitReading]

@[simp] theorem framePass_draws (l : Nat) (s : State) : (framePass l s).draws = s.draws := by
  have e := framePass_cases l s
  rcases e with ⟨_, e⟩ | ⟨_, _, e⟩ | ⟨_, _, _, e⟩ | ⟨_, _, _, _, e⟩ | ⟨_, _, _, _, _, e⟩ | ⟨_, _, _, _, _, _, e⟩ |
    ⟨_, _, _, _, _, _, _, _, e⟩ | ⟨_, _, _, _, _, _, _, _, e⟩ <;> rw [e] <;> simp [commitReading]

@[simp] theorem framePass_agenda (l : Nat) (s : State) : (framePass l s).agenda = s.agenda := by
  have e := framePass_cases l s
  rcases e with ⟨_, e⟩ | ⟨_, _, e⟩ | ⟨_, _, _, e⟩ | ⟨_, _, _, _, e⟩ | ⟨_, _, _, _, _, e⟩ | ⟨_, _, _, _, _, _, e⟩ |
    ⟨_, _, _, _, _, _, _, _, e⟩ | ⟨_, _, _, _, _, _, _, _, e⟩ <;> rw [e] <;> simp [commitReading]

/-- The bytes a pass writes are `PLAIN_BUF[0 .. cl)`, and `cl` is at most 48 when it writes any (R192, R199). -/
theorem decrypted_mem_wf (l : Nat) (s : State) (h : Memory.wf s.mem = true)
    (hc : cipherLengthBad (cipherLength l) = false) : Memory.wf (decrypted (cipherLength l) s).mem = true := by
  have hl : cipherLength l ≤ 48 := by
    have := of_decide_eq_false hc
    simp only [Config.plainBufBytes] at this
    omega
  unfold decrypted stageCtr
  rw [setCtr_mem]
  refine wf_writePlain _ _ _ (by simpa [stageIv] using h) ?_
  simp only [ctrXor_length, frameSlice, slice_length]
  omega

theorem framePass_mem_wf (l : Nat) (s : State) (h : Memory.wf s.mem = true) :
    Memory.wf (framePass l s).mem = true := by
  rcases framePass_cases l s with ⟨_, e⟩ | ⟨_, _, e⟩ | ⟨_, hc, _, e⟩ | ⟨_, hc, _, _, e⟩ | ⟨_, hc, _, _, _, e⟩ |
    ⟨_, hc, _, _, _, _, e⟩ | ⟨_, _, hc, _, _, _, _, _, e⟩ | ⟨_, _, hc, _, _, _, _, _, e⟩ <;>
    rw [e] <;> simp [commitReading, h] <;> exact decrypted_mem_wf l s h hc

/-- A pass that does not end READING_OK leaves the reading's registers and flags as they were (R271). -/
theorem framePass_no_reading (l : Nat) (s : State) (h : (framePass l s).frameResult ≠ .readingOk) :
    (framePass l s).totalRaw = s.totalRaw ∧ (framePass l s).monthRaw = s.monthRaw ∧
      (framePass l s).flowTemp = s.flowTemp ∧ (framePass l s).ambientTemp = s.ambientTemp ∧
      (framePass l s).readingCi = s.readingCi ∧ (framePass l s).resValid = s.resValid ∧
      (framePass l s).events.reading = s.events.reading ∧ (framePass l s).events.ovr = s.events.ovr := by
  rcases framePass_cases l s with ⟨_, e⟩ | ⟨_, _, e⟩ | ⟨_, _, _, e⟩ | ⟨_, _, _, _, e⟩ | ⟨_, _, _, _, _, e⟩ |
    ⟨_, _, _, _, _, _, e⟩ | ⟨_, _, _, _, _, _, _, _, e⟩ | ⟨_, _, _, _, _, _, _, _, e⟩ <;>
    rw [e] at h ⊢
  case commit => exact absurd (by simp [commitReading]) h
  all_goals simp [frameEvents]

theorem layoutOfCi_some {ci : Byte} {lay : Layout} (h : layoutOfCi ci = some lay) :
    ci = Config.ciCompact ∨ ci = Config.ciLong := by
  unfold layoutOfCi at h
  split at h
  · exact .inl ‹_›
  · split at h
    · exact .inr ‹_›
    · cases h

/-- A pass that ends READING_OK has committed a reading with one of the two CI bytes (R261, R266). -/
theorem framePass_reading (l : Nat) (s : State) (h : (framePass l s).frameResult = .readingOk) :
    (framePass l s).resValid = true ∧ (framePass l s).events.reading = true ∧
      ((framePass l s).readingCi = Config.ciCompact ∨ (framePass l s).readingCi = Config.ciLong) := by
  rcases framePass_cases l s with ⟨_, e⟩ | ⟨_, _, e⟩ | ⟨_, _, _, e⟩ | ⟨_, _, _, _, e⟩ | ⟨_, _, _, _, _, e⟩ |
    ⟨_, _, _, _, _, _, e⟩ | ⟨_, _, _, _, _, _, _, _, e⟩ | ⟨_, _, _, _, _, _, hi, _, e⟩ <;>
    rw [e] at h ⊢
  case commit =>
    have hc := layoutOfCi_some hi
    refine ⟨by simp [commitReading], by simp [commitReading, frameEvents], ?_⟩
    simpa [commitReading, ciByte, plainByte] using hc
  all_goals simp at h

/-! A pass does not look at `sync_n` (41_acquisition.md R168). -/

theorem passParse_with_syncN (cl : Nat) (s : State) (level : Bool) :
    passParse cl { s with syncN := level } = { passParse cl s with syncN := level } := by
  unfold passParse passLayout
  have h : ciByte { s with syncN := level } = ciByte s := rfl
  rw [h]
  split
  · rfl
  · split
    · rfl
    · split <;> rfl

theorem framePass_with_syncN (l : Nat) (s : State) (level : Bool) :
    framePass l { s with syncN := level } = { framePass l s with syncN := level } := by
  unfold framePass passDecrypt passIntegrity passCompare
  have h : addrMatch { s with syncN := level } = addrMatch s := rfl
  have hd : ∀ cl, stageCtr cl (stageIv { s with syncN := level }) =
      { stageCtr cl (stageIv s) with syncN := level } := fun _ => rfl
  rw [h, hd]
  generalize stageCtr (cipherLength l) (stageIv s) = u
  have hc : ∀ cl, stageCrc cl { u with syncN := level } = { stageCrc cl u with syncN := level } := fun _ => rfl
  rw [hc]
  simp only [passParse_with_syncN]
  repeat' split
  all_goals rfl

end Sys2Proof.Machine
end

