-- ==== Sys2Proof/Laws/CoreStep.lean ====
section
/-! SUPPORT. Everything a turn of the CORE can do (41_acquisition.md R160 to R170, 45_parser.md R270). -/

namespace Sys2Proof.Machine

/-- The moves of the CORE, each with its condition. -/
inductive CoreMove (s t : State) : Prop
  | hold (h : coreEnabled s = false) (e : t = s)
  | sync (hp : s.phase = .waitSync) (hn : s.syncN = false) (e : t = setPhase .pre0 s)
  | preamble0 (b : Byte) (bs : List Byte) (hp : s.phase = .pre0) (hq : s.rxq = b :: bs)
    (e : t = preambleByte0 b (dropRx s))
  | preambleMatch (b : Byte) (bs : List Byte) (hp : s.phase = .pre1) (hq : s.rxq = b :: bs)
    (hb : s.preByte0 = Config.preamble0 ∧ b = Config.preamble1) (e : t = setPhase .len (dropRx s))
  | preambleMiss (b : Byte) (bs : List Byte) (hp : s.phase = .pre1) (hq : s.rxq = b :: bs)
    (hb : ¬ (s.preByte0 = Config.preamble0 ∧ b = Config.preamble1))
    (e : t = setPhase .waitSync (raiseFrame .preambleMiss (emitRearm (dropRx s))))
  | lengthOk (l : Byte) (bs : List Byte) (hp : s.phase = .len) (hq : s.rxq = l :: bs) (hl : lenOk l.toNat = true)
    (e : t = setPhase .body (setBodyCnt 0#6 (setFrameLen l (dropRx s))))
  | lengthInvalid (l : Byte) (bs : List Byte) (hp : s.phase = .len) (hq : s.rxq = l :: bs)
    (hl : lenOk l.toNat = false)
    (e : t = setPhase .waitSync (raiseFrame .lengthInvalid (emitRearm (setFrameLen l (dropRx s)))))
  | bodyMore (b : Byte) (bs : List Byte) (hp : s.phase = .body) (hq : s.rxq = b :: bs)
    (hn : (s.bodyCnt + 1#6).toNat ≠ s.frameLen.toNat) (e : t = storeBodyByte b (dropRx s))
  | bodyLast (b : Byte) (bs : List Byte) (hp : s.phase = .body) (hq : s.rxq = b :: bs)
    (hn : (s.bodyCnt + 1#6).toNat = s.frameLen.toNat) (e : t = endOfBody (storeBodyByte b (dropRx s)))
  | pass (hp : s.phase = .proc) (e : t = passStep s)

/-- The inversion lemma of `coreStep`. -/
theorem coreStep_cases (s : State) : CoreMove s (coreStep s) := by
  unfold coreStep
  split
  case h_1 hp => exact .hold (by simp [coreEnabled, hp]) rfl
  case h_2 hp =>
    unfold syncStep
    split
    · rename_i hn
      exact .hold (by simp [coreEnabled, hp, hn]) rfl
    · rename_i hn
      exact .sync hp (by simpa using hn) rfl
  case h_3 hp =>
    unfold takeByte
    split
    · rename_i hq
      exact .hold (by simp [coreEnabled, hp, hq]) rfl
    · rename_i b bs hq
      exact .preamble0 b bs hp hq rfl
  case h_4 hp =>
    unfold takeByte
    split
    · rename_i hq
      exact .hold (by simp [coreEnabled, hp, hq]) rfl
    · rename_i b bs hq
      unfold preambleByte1
      split
      · exact .preambleMatch b bs hp hq (by assumption) rfl
      · exact .preambleMiss b bs hp hq (by assumption) rfl
  case h_5 hp =>
    unfold takeByte
    split
    · rename_i hq
      exact .hold (by simp [coreEnabled, hp, hq]) rfl
    · rename_i b bs hq
      unfold lengthByte
      split
      · exact .lengthOk b bs hp hq (by assumption) rfl
      · exact .lengthInvalid b bs hp hq (by simp_all) rfl
  case h_6 hp =>
    unfold takeByte
    split
    · rename_i hq
      exact .hold (by simp [coreEnabled, hp, hq]) rfl
    · rename_i b bs hq
      unfold bodyByte
      split
      · exact .bodyLast b bs hp hq (by assumption) rfl
      · exact .bodyMore b bs hp hq (by assumption) rfl
  case h_7 hp => exact .pass hp rfl

/-! The fields of the states the moves lead to. -/

@[simp] theorem preambleByte0_en (b : Byte) (s : State) : (preambleByte0 b s).en = s.en := rfl
@[simp] theorem preambleByte0_keyValid (b : Byte) (s : State) : (preambleByte0 b s).keyValid = s.keyValid := rfl
@[simp] theorem preambleByte0_idValid (b : Byte) (s : State) : (preambleByte0 b s).idValid = s.idValid := rfl
@[simp] theorem preambleByte0_resValid (b : Byte) (s : State) : (preambleByte0 b s).resValid = s.resValid := rfl
@[simp] theorem preambleByte0_phase (b : Byte) (s : State) : (preambleByte0 b s).phase = .pre1 := rfl
@[simp] theorem preambleByte0_events (b : Byte) (s : State) : (preambleByte0 b s).events = s.events := rfl
@[simp] theorem preambleByte0_irqEn (b : Byte) (s : State) : (preambleByte0 b s).irqEn = s.irqEn := rfl
@[simp] theorem preambleByte0_frameResult (b : Byte) (s : State) : (preambleByte0 b s).frameResult = s.frameResult := rfl
@[simp] theorem preambleByte0_cmdResult (b : Byte) (s : State) : (preambleByte0 b s).cmdResult = s.cmdResult := rfl
@[simp] theorem preambleByte0_meterId (b : Byte) (s : State) : (preambleByte0 b s).meterId = s.meterId := rfl
@[simp] theorem preambleByte0_frameLen (b : Byte) (s : State) : (preambleByte0 b s).frameLen = s.frameLen := rfl
@[simp] theorem preambleByte0_calcCrc (b : Byte) (s : State) : (preambleByte0 b s).calcCrc = s.calcCrc := rfl
@[simp] theorem preambleByte0_readCrc (b : Byte) (s : State) : (preambleByte0 b s).readCrc = s.readCrc := rfl
@[simp] theorem preambleByte0_ks (b : Byte) (s : State) : (preambleByte0 b s).ks = s.ks := rfl
@[simp] theorem preambleByte0_k (b : Byte) (s : State) : (preambleByte0 b s).k = s.k := rfl
@[simp] theorem preambleByte0_rk (b : Byte) (s : State) : (preambleByte0 b s).rk = s.rk := rfl
@[simp] theorem preambleByte0_ivr (b : Byte) (s : State) : (preambleByte0 b s).ivr = s.ivr := rfl
@[simp] theorem preambleByte0_totalRaw (b : Byte) (s : State) : (preambleByte0 b s).totalRaw = s.totalRaw := rfl
@[simp] theorem preambleByte0_monthRaw (b : Byte) (s : State) : (preambleByte0 b s).monthRaw = s.monthRaw := rfl
@[simp] theorem preambleByte0_flowTemp (b : Byte) (s : State) : (preambleByte0 b s).flowTemp = s.flowTemp := rfl
@[simp] theorem preambleByte0_ambientTemp (b : Byte) (s : State) : (preambleByte0 b s).ambientTemp = s.ambientTemp := rfl
@[simp] theorem preambleByte0_readingCi (b : Byte) (s : State) : (preambleByte0 b s).readingCi = s.readingCi := rfl
@[simp] theorem preambleByte0_framesRx (b : Byte) (s : State) : (preambleByte0 b s).framesRx = s.framesRx := rfl
@[simp] theorem preambleByte0_crcErrs (b : Byte) (s : State) : (preambleByte0 b s).crcErrs = s.crcErrs := rfl
@[simp] theorem preambleByte0_mem (b : Byte) (s : State) : (preambleByte0 b s).mem = s.mem := rfl
@[simp] theorem preambleByte0_preByte0 (b : Byte) (s : State) : (preambleByte0 b s).preByte0 = b := rfl
@[simp] theorem preambleByte0_bodyCnt (b : Byte) (s : State) : (preambleByte0 b s).bodyCnt = s.bodyCnt := rfl
@[simp] theorem preambleByte0_ctr (b : Byte) (s : State) : (preambleByte0 b s).ctr = s.ctr := rfl
@[simp] theorem preambleByte0_rearmEvents (b : Byte) (s : State) : (preambleByte0 b s).rearmEvents = s.rearmEvents := rfl
@[simp] theorem preambleByte0_syncN (b : Byte) (s : State) : (preambleByte0 b s).syncN = s.syncN := rfl
@[simp] theorem preambleByte0_rxq (b : Byte) (s : State) : (preambleByte0 b s).rxq = s.rxq := rfl
@[simp] theorem preambleByte0_busReads (b : Byte) (s : State) : (preambleByte0 b s).busReads = s.busReads := rfl
@[simp] theorem preambleByte0_draws (b : Byte) (s : State) : (preambleByte0 b s).draws = s.draws := rfl
@[simp] theorem preambleByte0_agenda (b : Byte) (s : State) : (preambleByte0 b s).agenda = s.agenda := rfl

@[simp] theorem storeBodyByte_en (b : Byte) (s : State) : (storeBodyByte b s).en = s.en := by
  simp [storeBodyByte]
@[simp] theorem storeBodyByte_keyValid (b : Byte) (s : State) : (storeBodyByte b s).keyValid = s.keyValid := by
  simp [storeBodyByte]
@[simp] theorem storeBodyByte_idValid (b : Byte) (s : State) : (storeBodyByte b s).idValid = s.idValid := by
  simp [storeBodyByte]
@[simp] theorem storeBodyByte_resValid (b : Byte) (s : State) : (storeBodyByte b s).resValid = s.resValid := by
  simp [storeBodyByte]
@[simp] theorem storeBodyByte_phase (b : Byte) (s : State) : (storeBodyByte b s).phase = s.phase := by
  simp [storeBodyByte]
@[simp] theorem storeBodyByte_events (b : Byte) (s : State) : (storeBodyByte b s).events = s.events := by
  simp [storeBodyByte]
@[simp] theorem storeBodyByte_irqEn (b : Byte) (s : State) : (storeBodyByte b s).irqEn = s.irqEn := by
  simp [storeBodyByte]
@[simp] theorem storeBodyByte_frameResult (b : Byte) (s : State) : (storeBodyByte b s).frameResult = s.frameResult := by
  simp [storeBodyByte]
@[simp] theorem storeBodyByte_cmdResult (b : Byte) (s : State) : (storeBodyByte b s).cmdResult = s.cmdResult := by
  simp [storeBodyByte]
@[simp] theorem storeBodyByte_meterId (b : Byte) (s : State) : (storeBodyByte b s).meterId = s.meterId := by
  simp [storeBodyByte]
@[simp] theorem storeBodyByte_frameLen (b : Byte) (s : State) : (storeBodyByte b s).frameLen = s.frameLen := by
  simp [storeBodyByte]
@[simp] theorem storeBodyByte_calcCrc (b : Byte) (s : State) : (storeBodyByte b s).calcCrc = s.calcCrc := by
  simp [storeBodyByte]
@[simp] theorem storeBodyByte_readCrc (b : Byte) (s : State) : (storeBodyByte b s).readCrc = s.readCrc := by
  simp [storeBodyByte]
@[simp] theorem storeBodyByte_ks (b : Byte) (s : State) : (storeBodyByte b s).ks = s.ks := by
  simp [storeBodyByte]
@[simp] theorem storeBodyByte_k (b : Byte) (s : State) : (storeBodyByte b s).k = s.k := by
  simp [storeBodyByte]
@[simp] theorem storeBodyByte_rk (b : Byte) (s : State) : (storeBodyByte b s).rk = s.rk := by
  simp [storeBodyByte]
@[simp] theorem storeBodyByte_ivr (b : Byte) (s : State) : (storeBodyByte b s).ivr = s.ivr := by
  simp [storeBodyByte]
@[simp] theorem storeBodyByte_totalRaw (b : Byte) (s : State) : (storeBodyByte b s).totalRaw = s.totalRaw := by
  simp [storeBodyByte]
@[simp] theorem storeBodyByte_monthRaw (b : Byte) (s : State) : (storeBodyByte b s).monthRaw = s.monthRaw := by
  simp [storeBodyByte]
@[simp] theorem storeBodyByte_flowTemp (b : Byte) (s : State) : (storeBodyByte b s).flowTemp = s.flowTemp := by
  simp [storeBodyByte]
@[simp] theorem storeBodyByte_ambientTemp (b : Byte) (s : State) : (storeBodyByte b s).ambientTemp = s.ambientTemp := by
  simp [storeBodyByte]
@[simp] theorem storeBodyByte_readingCi (b : Byte) (s : State) : (storeBodyByte b s).readingCi = s.readingCi := by
  simp [storeBodyByte]
@[simp] theorem storeBodyByte_framesRx (b : Byte) (s : State) : (storeBodyByte b s).framesRx = s.framesRx := by
  simp [storeBodyByte]
@[simp] theorem storeBodyByte_crcErrs (b : Byte) (s : State) : (storeBodyByte b s).crcErrs = s.crcErrs := by
  simp [storeBodyByte]
@[simp] theorem storeBodyByte_preByte0 (b : Byte) (s : State) : (storeBodyByte b s).preByte0 = s.preByte0 := by
  simp [storeBodyByte]
@[simp] theorem storeBodyByte_bodyCnt (b : Byte) (s : State) : (storeBodyByte b s).bodyCnt = s.bodyCnt + 1#6 := by
  simp [storeBodyByte]
@[simp] theorem storeBodyByte_ctr (b : Byte) (s : State) : (storeBodyByte b s).ctr = s.ctr := by
  simp [storeBodyByte]
@[simp] theorem storeBodyByte_rearmEvents (b : Byte) (s : State) : (storeBodyByte b s).rearmEvents = s.rearmEvents := by
  simp [storeBodyByte]
@[simp] theorem storeBodyByte_syncN (b : Byte) (s : State) : (storeBodyByte b s).syncN = s.syncN := by
  simp [storeBodyByte]
@[simp] theorem storeBodyByte_rxq (b : Byte) (s : State) : (storeBodyByte b s).rxq = s.rxq := by
  simp [storeBodyByte]
@[simp] theorem storeBodyByte_busReads (b : Byte) (s : State) : (storeBodyByte b s).busReads = s.busReads := by
  simp [storeBodyByte]
@[simp] theorem storeBodyByte_draws (b : Byte) (s : State) : (storeBodyByte b s).draws = s.draws := by
  simp [storeBodyByte]
@[simp] theorem storeBodyByte_agenda (b : Byte) (s : State) : (storeBodyByte b s).agenda = s.agenda := by
  simp [storeBodyByte]

@[simp] theorem endOfBody_en (s : State) : (endOfBody s).en = s.en := by
  simp [endOfBody]
@[simp] theorem endOfBody_keyValid (s : State) : (endOfBody s).keyValid = s.keyValid := by
  simp [endOfBody]
@[simp] theorem endOfBody_idValid (s : State) : (endOfBody s).idValid = s.idValid := by
  simp [endOfBody]
@[simp] theorem endOfBody_resValid (s : State) : (endOfBody s).resValid = s.resValid := by
  simp [endOfBody]
@[simp] theorem endOfBody_phase (s : State) : (endOfBody s).phase = .proc := by
  simp [endOfBody]
@[simp] theorem endOfBody_events (s : State) : (endOfBody s).events = s.events := by
  simp [endOfBody]
@[simp] theorem endOfBody_irqEn (s : State) : (endOfBody s).irqEn = s.irqEn := by
  simp [endOfBody]
@[simp] theorem endOfBody_frameResult (s : State) : (endOfBody s).frameResult = s.frameResult := by
  simp [endOfBody]
@[simp] theorem endOfBody_cmdResult (s : State) : (endOfBody s).cmdResult = s.cmdResult := by
  simp [endOfBody]
@[simp] theorem endOfBody_meterId (s : State) : (endOfBody s).meterId = s.meterId := by
  simp [endOfBody]
@[simp] theorem endOfBody_frameLen (s : State) : (endOfBody s).frameLen = s.frameLen := by
  simp [endOfBody]
@[simp] theorem endOfBody_calcCrc (s : State) : (endOfBody s).calcCrc = s.calcCrc := by
  simp [endOfBody]
@[simp] theorem endOfBody_readCrc (s : State) : (endOfBody s).readCrc = s.readCrc := by
  simp [endOfBody]
@[simp] theorem endOfBody_ks (s : State) : (endOfBody s).ks = s.ks := by
  simp [endOfBody]
@[simp] theorem endOfBody_k (s : State) : (endOfBody s).k = s.k := by
  simp [endOfBody]
@[simp] theorem endOfBody_rk (s : State) : (endOfBody s).rk = s.rk := by
  simp [endOfBody]
@[simp] theorem endOfBody_ivr (s : State) : (endOfBody s).ivr = s.ivr := by
  simp [endOfBody]
@[simp] theorem endOfBody_totalRaw (s : State) : (endOfBody s).totalRaw = s.totalRaw := by
  simp [endOfBody]
@[simp] theorem endOfBody_monthRaw (s : State) : (endOfBody s).monthRaw = s.monthRaw := by
  simp [endOfBody]
@[simp] theorem endOfBody_flowTemp (s : State) : (endOfBody s).flowTemp = s.flowTemp := by
  simp [endOfBody]
@[simp] theorem endOfBody_ambientTemp (s : State) : (endOfBody s).ambientTemp = s.ambientTemp := by
  simp [endOfBody]
@[simp] theorem endOfBody_readingCi (s : State) : (endOfBody s).readingCi = s.readingCi := by
  simp [endOfBody]
@[simp] theorem endOfBody_framesRx (s : State) : (endOfBody s).framesRx = s.framesRx + 1#32 := by
  simp [endOfBody]
@[simp] theorem endOfBody_crcErrs (s : State) : (endOfBody s).crcErrs = s.crcErrs := by
  simp [endOfBody]
@[simp] theorem endOfBody_mem (s : State) : (endOfBody s).mem = s.mem := by
  simp [endOfBody]
@[simp] theorem endOfBody_preByte0 (s : State) : (endOfBody s).preByte0 = s.preByte0 := by
  simp [endOfBody]
@[simp] theorem endOfBody_bodyCnt (s : State) : (endOfBody s).bodyCnt = s.bodyCnt := by
  simp [endOfBody]
@[simp] theorem endOfBody_ctr (s : State) : (endOfBody s).ctr = s.ctr := by
  simp [endOfBody]
@[simp] theorem endOfBody_rearmEvents (s : State) : (endOfBody s).rearmEvents = s.rearmEvents ++ [.rearm] := by
  simp [endOfBody]
@[simp] theorem endOfBody_syncN (s : State) : (endOfBody s).syncN = s.syncN := by
  simp [endOfBody]
@[simp] theorem endOfBody_rxq (s : State) : (endOfBody s).rxq = s.rxq := by
  simp [endOfBody]
@[simp] theorem endOfBody_busReads (s : State) : (endOfBody s).busReads = s.busReads := by
  simp [endOfBody]
@[simp] theorem endOfBody_draws (s : State) : (endOfBody s).draws = s.draws := by
  simp [endOfBody]
@[simp] theorem endOfBody_agenda (s : State) : (endOfBody s).agenda = s.agenda := by
  simp [endOfBody]

/-- A byte of the body is stored at `FRAME_BUF[BODY_CNT]`, inside the buffer (R165). -/
theorem storeBodyByte_mem (b : Byte) (s : State) :
    (storeBodyByte b s).mem = Memory.writeBytes s.mem (Config.frameBase + s.bodyCnt.toNat) [b] := rfl

theorem storeBodyByte_mem_wf (b : Byte) (s : State) (h : Memory.wf s.mem = true) :
    Memory.wf (storeBodyByte b s).mem = true := by
  rw [storeBodyByte_mem]
  have := s.bodyCnt.isLt
  exact wf_writeBytes _ _ _ h (by simp only [Config.frameBase, List.length_singleton]; omega)

/-- What a turn of the CORE never changes. -/
theorem coreStep_frame (s : State) :
    (coreStep s).en = s.en ∧ (coreStep s).keyValid = s.keyValid ∧ (coreStep s).idValid = s.idValid ∧
      (coreStep s).irqEn = s.irqEn ∧ (coreStep s).cmdResult = s.cmdResult ∧ (coreStep s).meterId = s.meterId ∧
      (coreStep s).ks = s.ks ∧ (coreStep s).k = s.k ∧ (coreStep s).rk = s.rk ∧ (coreStep s).syncN = s.syncN ∧
      (coreStep s).busReads = s.busReads ∧ (coreStep s).draws = s.draws ∧ (coreStep s).agenda = s.agenda := by
  rcases coreStep_cases s with ⟨_, e⟩ | ⟨_, _, e⟩ | ⟨_, _, _, _, e⟩ | ⟨_, _, _, _, _, e⟩ | ⟨_, _, _, _, _, e⟩ |
    ⟨_, _, _, _, _, e⟩ | ⟨_, _, _, _, _, e⟩ | ⟨_, _, _, _, _, e⟩ | ⟨_, _, _, _, _, e⟩ | ⟨_, e⟩ <;>
    rw [e] <;> simp [passStep]

end Sys2Proof.Machine
end

