-- ==== Sys2Proof/Laws/Step.lean ====
section
/-! SUPPORT. Everything a host access and a step of the whole system can do (20_memory.md R62 to R66, R72). -/

namespace Sys2Proof.Machine

/-- What a read does to the state: nothing, or EV_ACC_ERR with the word 0 (R62, R64, R65). -/
theorem memRead_cases (a : BusAddr) (s : State) :
    (reached a = none ∧ memRead a s = (0#32, setAccErr s)) ∨
      (∃ r, reached a = some r ∧ memRead a s = (readReg r s, s)) := by
  unfold memRead
  split
  · exact .inl ⟨by assumption, rfl⟩
  · exact .inr ⟨_, by assumption, rfl⟩

/-- What a host read does: the word is recorded, and EV_ACC_ERR is set where the access is ignored. -/
theorem hostRead_cases (a : BusAddr) (s : State) :
    hostRead a s = { setAccErr s with busReads := s.busReads ++ [0#32] } ∨
      ∃ w, hostRead a s = { s with busReads := s.busReads ++ [w] } := by
  unfold hostRead
  rcases memRead_cases a s with ⟨-, e⟩ | ⟨r, -, e⟩ <;> rw [e]
  · exact .inl rfl
  · exact .inr ⟨_, rfl⟩

/-- What a write can do (R63). -/
inductive WriteMove (a : BusAddr) (v : Word) (s : State) (o : Host.Outcome State Fault Refusal) : Prop
  | ignored (h : reached a = none) (e : o = .next (setAccErr s))
  | readOnly (r : Reg) (h : reached a = some r) (ha : r.access = .ro) (e : o = .next (setAccErr s))
  | lockedOut (r : Reg) (h : reached a = some r) (ha : r.access = .locked) (he : s.en = true)
    (e : o = .next (setAccErr s))
  | acknowledge (h : reached a = some .status) (e : o = .next (ackEvents v s))
  | enable (h : reached a = some .irqEn) (e : o = .next (setIrqEn v s))
  | command (h : reached a = some .cmd) (e : o = writeCommand v s)
  | accepted (r : Reg) (h : reached a = some r) (ha : r.access = .locked) (he : s.en = false)
    (e : o = .next (writeLocked r v s))

/-- The inversion lemma of `memWrite`. -/
theorem memWrite_cases (a : BusAddr) (v : Word) (s : State) : WriteMove a v s (memWrite a v s) := by
  unfold memWrite
  split
  · exact .ignored (by assumption) rfl
  · rename_i r h
    cases r <;> simp only [Reg.access]
    case status => exact .acknowledge h rfl
    case irqEn => exact .enable h rfl
    case cmd => exact .command h rfl
    case result => exact .readOnly _ h rfl rfl
    case crcVal => exact .readOnly _ h rfl rfl
    case totalRaw => exact .readOnly _ h rfl rfl
    case monthRaw => exact .readOnly _ h rfl rfl
    case temps => exact .readOnly _ h rfl rfl
    case framesRx => exact .readOnly _ h rfl rfl
    case crcErrs => exact .readOnly _ h rfl rfl
    all_goals
      split
      · rename_i he
        exact .lockedOut _ h rfl he rfl
      · rename_i he
        exact .accepted _ h rfl (by simpa using he) rfl

/-- The inversion lemma of `step`: a turn of the CORE, or the action at the head of the agenda. -/
theorem step_cases (s : State) :
    (takenAction s = none ∧ step s = .next (coreStep s)) ∨
      (∃ act rest, s.agenda = act :: rest ∧ takenAction s = some act ∧ step s = perform act (dropAction s)) := by
  unfold step systemStep takenAction
  cases ha : s.agenda with
  | nil => exact .inl ⟨rfl, rfl⟩
  | cons act rest =>
    by_cases hh : (act.isHost && hostHeld s) = true
    · exact .inl ⟨by simp only [hh, if_true], by simp only [hh, if_true]⟩
    · exact .inr ⟨act, rest, rfl, by simp only [hh]; rfl, by simp only [hh]; rfl⟩

/-- An action that is not a host access is never held. -/
theorem takenAction_eq_some {s : State} {act : Action} (h : takenAction s = some act) :
    ∃ rest, s.agenda = act :: rest ∧ (act.isHost = true → s.phase ≠ .proc) := by
  unfold takenAction at h
  split at h
  · cases h
  · rename_i a rest ha
    split at h
    · cases h
    · rename_i hn
      simp only [Option.some.injEq] at h
      subst h
      refine ⟨rest, ha, fun hh hp => hn ?_⟩
      simp [hh, hostHeld, hp]

/-! The addresses of the three registers that are never locked (20_memory.md R61, R66). -/

theorem reached_status (a : BusAddr) (h : reached a = some .status) : a = 0x000#12 :=
  (by decide +kernel : ∀ a : BusAddr, reached a = some .status → a = 0x000#12) a h

theorem reached_irqEn (a : BusAddr) (h : reached a = some .irqEn) : a = 0x004#12 :=
  (by decide +kernel : ∀ a : BusAddr, reached a = some .irqEn → a = 0x004#12) a h

theorem reached_cmd (a : BusAddr) (h : reached a = some .cmd) : a = cmdAddress :=
  (by decide +kernel : ∀ a : BusAddr, reached a = some .cmd → a = cmdAddress) a h

/-- A write of CMD is the command (R63). -/
theorem memWrite_cmd (w : Word) (s : State) : memWrite cmdAddress w s = writeCommand w s := by
  have h : reached cmdAddress = some .cmd := by decide
  simp [memWrite, h, Reg.access]

/-- The check of a command does not look at the agenda. -/
@[simp] theorem checkCommand_dropAction (i : Instr) (s : State) : checkCommand i (dropAction s) = checkCommand i s :=
  rfl

/-- Everything a step of the whole system can do, and the state it leads to. -/
inductive StepMove (s t : State) : Prop
  | core (b : State) (h : takenAction s = none ∧ b = s ∨ takenAction s = some .core ∧ b = dropAction s)
    (e : t = coreStep b)
  | read (a : BusAddr) (h : takenAction s = some (.hostRead a)) (e : t = hostRead a (dropAction s))
  | ignored (a : BusAddr) (v : Word) (h : takenAction s = some (.hostWrite a v))
    (hr : ∀ r, reached a = some r → r.access = .ro ∨ (r.access = .locked ∧ s.en = true))
    (e : t = setAccErr (dropAction s))
  | acknowledge (v : Word) (h : takenAction s = some (.hostWrite 0x000#12 v)) (e : t = ackEvents v (dropAction s))
  | enable (v : Word) (h : takenAction s = some (.hostWrite 0x004#12 v)) (e : t = setIrqEn v (dropAction s))
  | accepted (a : BusAddr) (v : Word) (r : Reg) (h : takenAction s = some (.hostWrite a v)) (hr : reached a = some r)
    (ha : r.access = .locked) (he : s.en = false) (e : t = writeLocked r v (dropAction s))
  | illegal (w : Word) (x : DecodeError) (h : takenAction s = some (.hostWrite cmdAddress w))
    (hd : decode w = .error x) (e : t = failCommand .illegal (dropAction s))
  | failed (w : Word) (i : Instr) (h : takenAction s = some (.hostWrite cmdAddress w)) (hd : decode w = .ok i)
    (hc : checkCommand i s ≠ .ok) (e : t = failCommand (checkCommand i s) (dropAction s))
  | performed (w : Word) (i : Instr) (h : takenAction s = some (.hostWrite cmdAddress w)) (hd : decode w = .ok i)
    (hc : checkCommand i s = .ok) (e : t = setCmdResult .ok (commandEffect i (dropAction s)))
  | byte (b : Byte) (h : takenAction s = some (.radioByte b)) (e : t = radioByte b (dropAction s))
  | level (l : Bool) (h : takenAction s = some (.radioSync l)) (e : t = radioSync l (dropAction s))
  | flush (h : takenAction s = some .radioFlush) (e : t = radioFlush (dropAction s))
  | reset (h : takenAction s = some .resetInput) (e : t = resetBlock (dropAction s))

/-- The inversion lemma of a step of the whole system, down to the operations. -/
theorem step_moves {s t : State} (h : step s = .next t) : StepMove s t := by
  rcases step_cases s with ⟨hn, e⟩ | ⟨act, rest, -, ha, e⟩
  · rw [e] at h
    cases h
    exact .core s (.inl ⟨hn, rfl⟩) rfl
  · rw [e] at h
    cases act with
    | core =>
      cases h
      exact .core _ (.inr ⟨ha, rfl⟩) rfl
    | hostRead a =>
      cases h
      exact .read a ha rfl
    | hostWrite a v =>
      simp only [perform] at h
      rcases memWrite_cases a v (dropAction s) with ⟨hr, e⟩ | ⟨r, hr, hl, e⟩ | ⟨r, hr, hl, he, e⟩ | ⟨hr, e⟩ |
        ⟨hr, e⟩ | ⟨hr, e⟩ | ⟨r, hr, hl, he, e⟩ <;> rw [e] at h
      case ignored =>
        cases h
        exact .ignored a v ha (by simp [hr]) rfl
      case readOnly =>
        cases h
        exact .ignored a v ha (by simp [hr, hl]) rfl
      case lockedOut =>
        cases h
        exact .ignored a v ha (by simpa [hr, hl] using he) rfl
      case acknowledge =>
        cases h
        exact .acknowledge v (by rw [ha, reached_status a hr]) rfl
      case enable =>
        cases h
        exact .enable v (by rw [ha, reached_irqEn a hr]) rfl
      case accepted =>
        cases h
        exact .accepted a v r ha hr hl he rfl
      case command =>
        have hw : takenAction s = some (.hostWrite cmdAddress v) := by rw [ha, reached_cmd a hr]
        rcases writeCommand_cases h with ⟨i, hd, hx⟩ | ⟨x, hd, hx⟩
        · rcases exec_cases hx with ⟨hc, hx⟩ | ⟨hc, hx⟩ <;> cases hx
          · exact .performed v i hw hd hc rfl
          · exact .failed v i hw hd hc rfl
        · cases hx
          exact .illegal v x hw hd rfl
    | radioByte b =>
      cases h
      exact .byte b ha rfl
    | radioSync l =>
      cases h
      exact .level l ha rfl
    | radioFlush =>
      cases h
      exact .flush ha rfl
    | resetInput =>
      cases h
      exact .reset ha rfl

/-! A buffer word after the write of a buffer word (20_memory.md R62, R63, R67). -/

theorem windowWord_writeFrame (s : State) (j k : Nat) (v : Word) :
    windowWord (frameByte (writeFrame (4 * j) (wordBytes v) s)) (4 * k) =
      if j = k then v else windowWord (frameByte s) (4 * k) := by
  unfold windowWord
  simp only [frameByte_writeFrame]
  by_cases h : j = k
  · subst h
    simp [wordBytes, wordOfBytes_wordByte]
  · rw [if_neg (by rw [wordBytes_length]; omega), if_neg (by rw [wordBytes_length]; omega),
      if_neg (by rw [wordBytes_length]; omega), if_neg (by rw [wordBytes_length]; omega), if_neg h]

theorem windowWord_writePlain (s : State) (j k : Nat) (v : Word) :
    windowWord (plainByte (writePlain (4 * j) (wordBytes v) s)) (4 * k) =
      if j = k then v else windowWord (plainByte s) (4 * k) := by
  unfold windowWord
  simp only [plainByte_writePlain]
  by_cases h : j = k
  · subst h
    simp [wordBytes, wordOfBytes_wordByte]
  · rw [if_neg (by rw [wordBytes_length]; omega), if_neg (by rw [wordBytes_length]; omega),
      if_neg (by rw [wordBytes_length]; omega), if_neg (by rw [wordBytes_length]; omega), if_neg h]

end Sys2Proof.Machine
end

