-- ==== Sys2Proof/Laws/Bus.lean ====
section
/-! SUPPORT. The register map from both sides: which register an address reaches, and which address a register has
(20_memory.md R61, R64, R65). -/

namespace Sys2Proof.Machine

/-- The address of each register and buffer word (R61). -/
def regAddress : Reg → Nat
  | .status => 0x000
  | .irqEn => 0x004
  | .cmd => 0x008
  | .result => 0x00C
  | .meterId => 0x010
  | .frameLen => 0x014
  | .crcVal => 0x018
  | .key j => 0x020 + 4 * j.val
  | .iv j => 0x030 + 4 * j.val
  | .totalRaw => 0x040
  | .monthRaw => 0x044
  | .temps => 0x048
  | .framesRx => 0x04C
  | .crcErrs => 0x050
  | .frameWord j => 0x100 + 4 * j.val
  | .plainWord j => 0x140 + 4 * j.val

/-- One row of the map: the address is the register's, or the search goes on. -/
theorem row_cases {a k : Nat} {q r : Reg} {o : Option Reg} (h : (if a = k then some q else o) = some r) :
    (a = k ∧ q = r) ∨ o = some r := by
  split at h
  · exact .inl ⟨by assumption, Option.some.inj h⟩
  · exact .inr h

theorem lowRegAt_some {a : Nat} {r : Reg} (h : lowRegAt a = some r) : a = regAddress r := by
  unfold lowRegAt at h
  iterate 20
    rcases row_cases h with ⟨e, hq⟩ | h
    · subst hq
      exact e
  cases h

theorem regAt_some {a : Nat} {r : Reg} (ha : a % 4 = 0) (h : regAt a = some r) : a = regAddress r := by
  unfold regAt at h
  split at h
  · rename_i hr
    cases h
    have h1 := hr.1
    simp only [regAddress, Config.frameBase] at h1 ⊢
    omega
  · split at h
    · rename_i hr
      cases h
      have h1 := hr.1
      simp only [regAddress, Config.plainBase] at h1 ⊢
      omega
    · exact lowRegAt_some h

/-- An address that reaches a register is that register's address, aligned. -/
theorem reached_some {a : BusAddr} {r : Reg} (h : reached a = some r) : a.toNat = regAddress r ∧ a.toNat % 4 = 0 := by
  unfold reached at h
  split at h
  · rename_i hal
    have h4 : a.toNat % 4 = 0 := by simpa [aligned] using hal
    exact ⟨regAt_some h4 h, h4⟩
  · cases h

/-- No two addresses reach the same register. -/
theorem reached_injective {a b : BusAddr} {r : Reg} (ha : reached a = some r) (hb : reached b = some r) : a = b := by
  apply BitVec.eq_of_toNat_eq
  rw [(reached_some ha).1, (reached_some hb).1]

/-- Every register is reached at its address. -/
theorem reached_regAddress (r : Reg) : reached (BitVec.ofNat 12 (regAddress r)) = some r := by
  cases r <;> first | rfl | skip
  case key j => revert j; decide
  case iv j => revert j; decide
  case frameWord j => revert j; decide
  case plainWord j => revert j; decide

/-- The addresses that reach nothing: misaligned, or not in the map. -/
theorem reached_none_iff (a : BusAddr) :
    reached a = none ↔ a.toNat % 4 ≠ 0 ∨ ∀ r, a.toNat ≠ regAddress r := by
  constructor
  · intro h
    by_cases h4 : a.toNat % 4 = 0
    · right
      intro r hr
      have e := reached_regAddress r
      rw [← hr, BitVec.ofNat_toNat, BitVec.setWidth_eq, h] at e
      cases e
    · exact .inl h4
  · intro h
    cases hr : reached a with
    | none => rfl
    | some r =>
      have e := reached_some hr
      rcases h with h | h
      · exact absurd e.2 h
      · exact absurd e.1 (h r)

end Sys2Proof.Machine
end

