-- ==== Sys2Proof/Laws/PerInstr.lean ====
section
/-! SUPPORT. The family `RowPattern`: the command word of every instruction meets its own row of 30_encoding.md R93,
`(w & mask) == match` with the row's opcode as the match. -/

namespace Sys2Proof.Laws.RowPattern

/-- The encoded word, masked by the row's mask, is the row's opcode and nothing else (R92, R93). -/
def Statement (i : Instr) : Prop := encode i &&& rowMask i = BitVec.ofNat 32 (opcode i)

theorem nop : Statement .nop := by unfold Statement; decide

theorem keyLoad : Statement .keyLoad := by unfold Statement; decide

theorem start : Statement .start := by unfold Statement; decide

theorem stop : Statement .stop := by unfold Statement; decide

theorem process : Statement .process := by unfold Statement; decide

theorem deriveIv : Statement .deriveIv := by unfold Statement; decide

/-- The two operand fields vanish under the mask, whatever they hold. -/
theorem operands_masked (x y : BitVec 6) (op : BitVec 8) :
    ((0#10 ++ y ++ 0#2 ++ x ++ op : Word) &&& 0xFFC0C0FF#32) = op.setWidth 32 := by
  apply BitVec.eq_of_getLsbD_eq
  intro i hi
  interval_cases i <;> simp only [BitVec.getLsbD_and, BitVec.getLsbD_append, BitVec.getLsbD_setWidth] <;> simp

theorem ctr (a n : Nat) : Statement (.ctr a n) := operands_masked _ _ _

theorem crc (a n : Nat) : Statement (.crc a n) := operands_masked _ _ _

/-- Under AES_BLOCK's mask only the field `A` vanishes; its `N` is zero. -/
theorem operandA_masked (x : BitVec 6) (op : BitVec 8) :
    ((0#10 ++ 0#6 ++ 0#2 ++ x ++ op : Word) &&& 0xFFFFC0FF#32) = op.setWidth 32 := by
  apply BitVec.eq_of_getLsbD_eq
  intro i hi
  interval_cases i <;> simp only [BitVec.getLsbD_and, BitVec.getLsbD_append, BitVec.getLsbD_setWidth] <;> simp

theorem aesBlock (a : Nat) : Statement (.aesBlock a) := operandA_masked _ _

theorem softReset : Statement .softReset := by unfold Statement; decide

end Sys2Proof.Laws.RowPattern
end

