-- ==== Sys2Proof/Laws/Decode.lean ====
section
/-! SUPPORT. The fields of a command word, and everything the decoder can answer (30_encoding.md R90 to R95). -/

namespace Sys2Proof

theorem opcField_encode (i : Instr) : opcField (encode i) = BitVec.ofNat 8 (opcode i) := by
  unfold opcField encode
  apply BitVec.eq_of_getLsbD_eq
  intro b hb
  interval_cases b <;> simp only [BitVec.getLsbD_extractLsb', BitVec.getLsbD_append] <;> simp

theorem aField_encode (i : Instr) : aField (encode i) = operandA i % 64 := by
  have h : (encode i).extractLsb' 8 6 = BitVec.ofNat 6 (operandA i) := by
    unfold encode
    apply BitVec.eq_of_getLsbD_eq
    intro b hb
    interval_cases b <;> simp only [BitVec.getLsbD_extractLsb', BitVec.getLsbD_append] <;> simp
  simp [aField, h]

theorem nField_encode (i : Instr) : nField (encode i) = operandN i % 64 := by
  have h : (encode i).extractLsb' 16 6 = BitVec.ofNat 6 (operandN i) := by
    unfold encode
    apply BitVec.eq_of_getLsbD_eq
    intro b hb
    interval_cases b <;> simp only [BitVec.getLsbD_extractLsb', BitVec.getLsbD_append] <;> simp
  simp [nField, h]

/-- The three fields as numbers of the word. -/
theorem opcField_toNat (w : Word) : (opcField w).toNat = w.toNat % 256 := by
  simp [opcField, BitVec.extractLsb'_toNat]

theorem aField_eq (w : Word) : aField w = w.toNat / 2 ^ 8 % 64 := by
  simp [aField, BitVec.extractLsb'_toNat, Nat.shiftRight_eq_div_pow]

theorem nField_eq (w : Word) : nField w = w.toNat / 2 ^ 16 % 64 := by
  simp [nField, BitVec.extractLsb'_toNat, Nat.shiftRight_eq_div_pow]

theorem aField_lt (w : Word) : aField w < 64 := (w.extractLsb' 8 6).isLt

theorem nField_lt (w : Word) : nField w < 64 := (w.extractLsb' 16 6).isLt

/-- The low byte of a word that meets a row with all opcode bits in its mask is the row's opcode. -/
theorem opcode_of_rowMatches {m p w : Word} (h : rowMatches m p w = true) (hm : m &&& 0xFF#32 = 0xFF#32) :
    w &&& 0xFF#32 = p &&& 0xFF#32 := by
  have h' : w &&& m = p := by simpa [rowMatches] using h
  rw [← h', BitVec.and_assoc, hm]

/-- What the decoder can answer, with the row the word meets. -/
theorem decode_cases (w : Word) :
    (∃ i, decode w = .ok i ∧ w &&& rowMask i = BitVec.ofNat 32 (opcode i) ∧
        (operandA i = aField w ∨ (operandA i = 0 ∧ ∀ a n, i ≠ .ctr a n ∧ i ≠ .crc a n ∧ i ≠ .aesBlock a)) ∧
        (operandN i = nField w ∨ (operandN i = 0 ∧ ∀ a n, i ≠ .ctr a n ∧ i ≠ .crc a n))) ∨
      decode w = .error (whyIllegal w) := by
  unfold decode
  repeat' split
  all_goals first
    | exact .inr rfl
    | (refine .inl ⟨_, rfl, ?_, ?_, ?_⟩ <;> simp_all [rowMatches, rowMask, opcode, operandA, operandN])

/-- A word meets no row of another opcode. -/
theorem rowMatches_eq_false {m p w q : Word} (hw : w &&& 0xFF#32 = q) (hm : m &&& 0xFF#32 = 0xFF#32)
    (hq : p &&& 0xFF#32 ≠ q) : rowMatches m p w = false := by
  cases h : rowMatches m p w
  · rfl
  · exact absurd ((opcode_of_rowMatches h hm).symm.trans hw) hq

/-- The instruction of the same row with the operands of a word. -/
def withOperandsOf (w : Word) : Instr → Instr
  | .ctr _ _ => .ctr (aField w) (nField w)
  | .crc _ _ => .crc (aField w) (nField w)
  | .aesBlock _ => .aesBlock (aField w)
  | .nop => .nop
  | .keyLoad => .keyLoad
  | .start => .start
  | .stop => .stop
  | .process => .process
  | .deriveIv => .deriveIv
  | .softReset => .softReset

/-- The row of R93 that a word meets decides what it decodes to (R95: the rows are disjoint). -/
theorem decode_of_row (w : Word) (i : Instr) (h : w &&& rowMask i = BitVec.ofNat 32 (opcode i)) :
    decode w = .ok (withOperandsOf w i) := by
  have hr : rowMatches (rowMask i) (BitVec.ofNat 32 (opcode i)) w = true := by simp [rowMatches, h]
  have hq : w &&& 0xFF#32 = BitVec.ofNat 32 (opcode i) &&& 0xFF#32 :=
    opcode_of_rowMatches hr (by cases i <;> simp [rowMask])
  cases i <;> simp only [rowMask, opcode] at hr hq <;>
    simp (disch := first | exact hq | decide) only [decode, withOperandsOf, rowMatches_eq_false hq, hr, if_true, Bool.false_eq_true,
      if_false]

/-- A word that meets no row is refused. -/
theorem decode_of_no_row (w : Word) (h : ∀ i, ¬ w &&& rowMask i = BitVec.ofNat 32 (opcode i)) :
    decode w = .error (whyIllegal w) := by
  rcases decode_cases w with ⟨i, -, hi, -⟩ | he
  · exact absurd hi (h i)
  · exact he

theorem and_allOnes (w : Word) : w &&& 0xFFFFFFFF#32 = w := by
  apply BitVec.eq_of_getLsbD_eq
  intro i hi
  interval_cases i <;> simp

/-- A command without operands has one word: its opcode (R92, R93). -/
theorem word_of_decode {w : Word} {i : Instr} (h : decode w = .ok i)
    (hi : ∀ a n, i ≠ .ctr a n ∧ i ≠ .crc a n ∧ i ≠ .aesBlock a) : w = BitVec.ofNat 32 (opcode i) := by
  rcases decode_cases w with ⟨j, hj, hr, -⟩ | he
  · rw [h] at hj
    cases hj
    cases i <;> simp only [rowMask, and_allOnes] at hr
    case ctr a n => exact absurd rfl (hi a n).1
    case crc a n => exact absurd rfl (hi a n).2.1
    case aesBlock a => exact absurd rfl (hi a 0).2.2
    all_goals exact hr
  · rw [h] at he
    cases he

end Sys2Proof
end

