-- ==== Sys2Proof/Machine/HostProgram.lean ====
section
/-! DEFINITION. The host program syntax of 30_encoding.md R96: each form as the list of actions it stands for;
and the configuration strings of 60_exceptions.md R322 as the register writes they cause. -/

namespace Sys2Proof.Machine

/-- `WR <address>, <value>` (R96). -/
def progWr (a : BusAddr) (v : Word) : List Action := [.hostWrite a v]

/-- `RD <address>` (R96). -/
def progRd (a : BusAddr) : List Action := [.hostRead a]

/-- `CMD <MNEMONIC> A=<a>, N=<n>` (R96): a write of the command's word to CMD. -/
def progCmd (i : Instr) : List Action := progWr cmdAddress (encode i)

/-- `SETKEY <k0>, <k1>, <k2>, <k3>` (R96): the four staging words, then KEY_LOAD. -/
def progSetKey (k0 k1 k2 k3 : Word) : List Action :=
  progWr 0x020#12 k0 ++ progWr 0x024#12 k1 ++ progWr 0x028#12 k2 ++ progWr 0x02C#12 k3 ++ progCmd .keyLoad

/-- `SETID <v>` (R96). -/
def progSetId (v : Word) : List Action := progWr 0x010#12 v

/-- The words of a LOAD: groups of four bytes, a short last group padded with 0x00 (R96). The first argument
bounds the number of groups. -/
def loadWords : Nat → Nat → List Byte → List Action
  | 0, _, _ => []
  | _ + 1, _, [] => []
  | fuel + 1, a, b :: bs =>
    .hostWrite (BitVec.ofNat 12 a) (wordOfBytes b (bs.getD 0 0#8) (bs.getD 1 0#8) (bs.getD 2 0#8)) ::
      loadWords fuel (a + 4) (bs.drop 3)

/-- `LOAD FRAME_BUF, <b0> <b1> ...` (R96). -/
def progLoadFrame (bs : List Byte) : List Action := loadWords bs.length Config.frameBase bs

/-- `LOAD PLAIN_BUF, <b0> ...` (R96). -/
def progLoadPlain (bs : List Byte) : List Action := loadWords bs.length Config.plainBase bs

/-- `CLR <EV_...>` (R96): a W1C write of the named bits. -/
def progClr (e : EventBits) : List Action := progWr 0x000#12 (0#10 ++ e.toBits ++ 0#16)

/-- `RX <b0> <b1> ...` (R96): the RADIO appends the bytes in order. -/
def progRx (bs : List Byte) : List Action := bs.map .radioByte

/-- `SYNC <0 or 1>` (R96). -/
def progSync (level : Bool) : List Action := [.radioSync level]

/-- `n` turns of the CORE, as the programs of 95_test_vectors.md count them. -/
def coreTurns (n : Nat) : List Action := List.replicate n .core

/-- The read protocol of 70_reset_and_hazards.md R342, steps 2 to 4: clear EV_READING, read the three result
registers, read STATUS. -/
def progTakeReading : List Action :=
  progWr 0x000#12 0x00010000#32 ++ progRd 0x040#12 ++ progRd 0x044#12 ++ progRd 0x048#12 ++ progRd 0x000#12

/-- The value of a hex digit of a configuration string (60_exceptions.md R322): the number below 16 that is written
with that digit, either letter case (log 23). -/
def hexDigit (c : Char) : Option Nat := (List.range 16).find? fun value => Nat.digitChar value == c.toLower

/-- The bytes of a string of hex digits, two digits a byte (R322). -/
def hexBytes : List Char → Option (List Byte)
  | [] => some []
  | [_] => none
  | h :: l :: cs =>
    match hexDigit h, hexDigit l, hexBytes cs with
    | some x, some y, some bs => some (BitVec.ofNat 8 (16 * x + y) :: bs)
    | _, _, _ => none

/-- The `n` bytes of a configuration string, none where the host ignores it: a string shorter than required is
ignored (R322). What becomes of other strings that are not `2n` hex digits is not in the source (log 23). -/
def configBytes (n : Nat) (cs : List Char) : Option (List Byte) :=
  if cs.length < 2 * n then none
  else if cs.length = 2 * n then (hexBytes cs).or (Config.unstatedHex n cs)
  else Config.unstatedHex n cs

/-- Word `j` of parsed bytes, in the lane order of 20_memory.md R67. -/
def configWord (bs : List Byte) (j : Nat) : Word :=
  wordOfBytes (bs.getD (4 * j) 0#8) (bs.getD (4 * j + 1) 0#8) (bs.getD (4 * j + 2) 0#8) (bs.getD (4 * j + 3) 0#8)

/-- The identity string (R322): METER_ID is written, or nothing (70_reset_and_hazards.md R335). -/
def progIdentityString (cs : List Char) : List Action :=
  match configBytes 4 cs with
  | none => []
  | some bs => progSetId (configWord bs 0)

/-- The key string (R322): KEY0 to KEY3 are written and loaded (R334), or nothing (R335). -/
def progKeyString (cs : List Char) : List Action :=
  match configBytes 16 cs with
  | none => []
  | some bs => progSetKey (configWord bs 0) (configWord bs 1) (configWord bs 2) (configWord bs 3)

end Sys2Proof.Machine
end

