-- ==== Sys2Proof/Machine/HostSoftware.lean ====
section
/-! DEFINITION. The host software's use of a reading, as pure functions outside the state of the block: the units of
60_exceptions.md R317 and the FlowEstimator of R318 to R321 (a collaborator, 00_scope.md R5; log 21). Arithmetic is
exact: rational numbers stand for the host's floats. -/

namespace Sys2Proof.Machine

/-- A raw volume in cubic metres (R317): the raw value divided by 1000. -/
def cubicMetres (raw : Word) : Rat := (raw.toNat : Rat) / 1000

/-- The host's Reading of the block's result registers, taken at a time of the host's clock, in milliseconds
(R317). -/
structure HostReading where
  totalM3 : Rat
  monthStartM3 : Rat
  flowTempC : Nat
  ambientTempC : Nat
  observedAt : Int
  deriving DecidableEq, Repr

/-- The Reading made of the result registers (R317). -/
def hostReading (s : State) (now : Int) : HostReading :=
  ⟨cubicMetres s.totalRaw, cubicMetres s.monthRaw, s.flowTemp.toNat, s.ambientTemp.toNat, now⟩

/-- FlowState (R320). -/
structure FlowState where
  previousTotalM3 : Rat
  previousTimestamp : Int
  deriving DecidableEq, Repr

/-- The difference of two totals in litres (R318). -/
def flowLiters (p : FlowState) (r : HostReading) : Rat := (r.totalM3 - p.previousTotalM3) * 1000

/-- The elapsed time in hours, from milliseconds (R318). -/
def flowHours (p : FlowState) (r : HostReading) : Rat := ((r.observedAt - p.previousTimestamp : Int) : Rat) / 3600000

/-- The rate published for a new reading, if any (R318, R319, R321; the formula of 90_conflicts.md C3). -/
def flowRate : Option FlowState → HostReading → Option Rat
  | none, _ => none
  | some p, r =>
    if flowHours p r > 1 / 1000 ∧ flowLiters p r ≥ 0 then some (flowLiters p r / flowHours p r) else none

/-- The state kept for the next reading, whether or not a rate was published (R320, R321). -/
def flowNext (r : HostReading) : FlowState := ⟨r.totalM3, r.observedAt⟩

end Sys2Proof.Machine
end

