-- ==== Sys2Proof/Tests/Slice0.lean ====
section
/-! SUPPORT. Tests of the model on single steps, with the expected values taken from spec/ (95_test_vectors.md unless
a comment names another file), and for each statement with hypotheses a witness that meets them all. -/

namespace Sys2Proof.Tests

open Sys2Proof.Machine Sys2Proof.Claims

/-! ### States the tests start from -/

/-- Every buffer byte 0, so that a test can compare whole buffers. -/
def zeroMem : Memory := bufferAddresses.map fun a => (a, 0x00#8)

/-- The reset state with the drawn values taken as 0. -/
def idle : State := { State.reset with mem := zeroMem, rk := keyExpansion 0#128, ctr := 0#128, preByte0 := 0#8 }

/-- The key K1 of the test vectors. -/
def keyK1 : Block := 0x2B7E151628AED2A6ABF7158809CF4F3C#128

/-- The key Kc of the test vectors. -/
def keyKc : Block := 0x000102030405060708090A0B0C0D0E0F#128

/-- A key and the identity 0x12345678 loaded, EN = 0. -/
def readyWith (key : Block) : State :=
  { idle with ks := key, k := key, rk := keyExpansion key, keyValid := true, meterId := 0x12345678#32, idValid := true }

def ready : State := readyWith keyK1

/-- The header H. -/
def headerH : List Byte :=
  [0x44#8, 0x2D#8, 0x2C#8, 0x78#8, 0x56#8, 0x34#8, 0x12#8, 0x1B#8, 0x16#8, 0x8D#8, 0x20#8, 0x6A#8, 0x31#8, 0x02#8,
    0x00#8, 0x00#8]

/-- Frame C after its header: 19 bytes of ciphertext and the trailer. -/
def bodyC : List Byte :=
  [0x61#8, 0x0C#8, 0xE0#8, 0x93#8, 0x3D#8, 0x28#8, 0xDF#8, 0x14#8, 0x08#8, 0x56#8, 0x02#8, 0xB1#8, 0x1E#8, 0x16#8,
    0x42#8, 0xB1#8, 0xCE#8, 0x08#8, 0x1D#8, 0x00#8, 0x00#8]

/-- A frame in FRAME_BUF and its length in FRAME_LEN. -/
def loaded (body : List Byte) : State :=
  { ready with
    mem := Memory.writeBytes zeroMem 0x100 (headerH ++ body), frameLen := BitVec.ofNat 8 (16 + body.length) }

/-- Acquisition enabled. -/
def armed : State := { ready with en := true, phase := .waitSync }

/-- Acquisition enabled and in the given phase, with bytes to take. -/
def receiving (p : Phase) (q : List Byte) : State := { armed with phase := p, rxq := q, syncN := false }

/-- Bytes in PLAIN_BUF. -/
def withPlain (bs : List Byte) (s : State) : State := { s with mem := Memory.writeBytes s.mem 0x140 bs }

/-- The state a step or a command answers. -/
def after : Host.Outcome State Fault Refusal → State
  | .next t => t
  | .fault e => nomatch e
  | .refused _ => idle

/-- FRAME_RESULT, CRC_VAL and the reading after a pass. -/
def passView (l : Nat) (s : State) : FrameResult × Word × Word × Word × Word :=
  ((framePass l s).frameResult, crcValWord (framePass l s), (framePass l s).totalRaw, (framePass l s).monthRaw,
    tempsWord (framePass l s))

/-! ### Well-formedness and decoding -/

/-- An ill-formed term for each check, refused, and the largest operands, accepted (30_encoding.md R90). -/
theorem test_wellFormed_refuses :
    ¬ (Instr.ctr 64 0).WellFormed ∧ ¬ (Instr.ctr 0 64).WellFormed ∧ ¬ (Instr.crc 64 0).WellFormed ∧
      ¬ (Instr.crc 0 64).WellFormed ∧ ¬ (Instr.aesBlock 64).WellFormed ∧ (Instr.ctr 63 63).WellFormed ∧
      (Instr.crc 63 63).WellFormed ∧ (Instr.aesBlock 63).WellFormed := by decide

/-- Each row of R93 written out bit by bit: bits 31:22, N, bits 15:14, A, OPC. -/
theorem test_decode_bitwise :
    decode (0#10 ++ 0#6 ++ 0#2 ++ 0#6 ++ 0b00000000#8) = .ok .nop ∧
      decode (0#10 ++ 0#6 ++ 0#2 ++ 0#6 ++ 0b00000001#8) = .ok .keyLoad ∧
      decode (0#10 ++ 0#6 ++ 0#2 ++ 0#6 ++ 0b00000010#8) = .ok .start ∧
      decode (0#10 ++ 0#6 ++ 0#2 ++ 0#6 ++ 0b00000011#8) = .ok .stop ∧
      decode (0#10 ++ 0#6 ++ 0#2 ++ 0#6 ++ 0b00000100#8) = .ok .process ∧
      decode (0#10 ++ 0#6 ++ 0#2 ++ 0#6 ++ 0b00000101#8) = .ok .deriveIv ∧
      decode (0#10 ++ 0b010011#6 ++ 0#2 ++ 0b000101#6 ++ 0b00000110#8) = .ok (.ctr 5 19) ∧
      decode (0#10 ++ 0b110000#6 ++ 0#2 ++ 0b000001#6 ++ 0b00000111#8) = .ok (.crc 1 48) ∧
      decode (0#10 ++ 0#6 ++ 0#2 ++ 0b100000#6 ++ 0b00001000#8) = .ok (.aesBlock 32) ∧
      decode (0#10 ++ 0#6 ++ 0#2 ++ 0#6 ++ 0b00001111#8) = .ok .softReset := by decide

/-- Section 2.8, the illegal words, each with its reason. -/
theorem test_decode_illegal :
    decode 0x00000100#32 = .error .reservedBitsSet ∧ decode 0x00000009#32 = .error .reservedOpcode ∧
      decode 0x0000000E#32 = .error .reservedOpcode ∧ decode 0x00000010#32 = .error .reservedOpcode ∧
      decode 0x00004007#32 = .error .reservedBitsSet ∧ decode 0x00400006#32 = .error .reservedBitsSet ∧
      decode 0x0000010F#32 = .error .reservedBitsSet ∧ decode 0x00010008#32 = .error .reservedBitsSet ∧
      decode 0xFFFFFFFF#32 = .error .reservedOpcode := by decide

/-- `(n << 16) | (a << 8) | OPC` (30_encoding.md R96). -/
theorem test_encode_words :
    encode .nop = 0x00000000#32 ∧ encode .keyLoad = 0x00000001#32 ∧ encode .start = 0x00000002#32 ∧
      encode .stop = 0x00000003#32 ∧ encode .process = 0x00000004#32 ∧ encode .deriveIv = 0x00000005#32 ∧
      encode (.ctr 63 48) = 0x00303F06#32 ∧ encode (.crc 48 0) = 0x00003007#32 ∧
      encode (.aesBlock 33) = 0x00002108#32 ∧ encode .softReset = 0x0000000F#32 := by decide

/-- The host's entry, in the opcode table's numbering. -/
theorem test_decodeTableWord :
    decodeTableWord 32 0x00300106 = some (.ctr 1 48) ∧ decodeTableWord 32 0x0000000B = none ∧
      decodeTableWord 8 0x0F = some .softReset := by decide

/-! ### The units -/

/-- Section 2.1. -/
theorem test_crc_vectors :
    crc16 [] = 0xFFFF#16 ∧ crc16 [0x01#8] = 0xC29A#16 ∧ crc16 [0x00#8, 0x01#8] = 0xC29A#16 ∧
      crc16 [0x79#8] = 0xA685#16 ∧ crc16 [0xFF#8] = 0x53B7#16 ∧
      crc16 [0x31#8, 0x32#8, 0x33#8, 0x34#8, 0x35#8, 0x36#8, 0x37#8, 0x38#8, 0x39#8] = 0xC2B7#16 := by
  decide +kernel

/-- Section 2.1 through the printed table. -/
theorem test_crc_table_vectors :
    crc16Table [0x31#8, 0x32#8, 0x33#8, 0x34#8, 0x35#8, 0x36#8, 0x37#8, 0x38#8, 0x39#8] = 0xC2B7#16 ∧
      crc16Table [0xFF#8] = 0x53B7#16 := by decide +kernel

/-- Section 2.2: Appendix B of FIPS-197, and the last vector of the table. -/
theorem test_aes_vectors :
    aesEncrypt 0x3243F6A8885A308D313198A2E0370734#128 (keyExpansion keyK1) = 0x3925841D02DC09FBDC118597196A0B32#128 ∧
      aesEncrypt 0#128 (keyExpansion keyKc) = 0xC6A13B37878F5B826F4F8162A1C8D879#128 := by decide +kernel

/-- Section 2.2, round 1 of the trace of C.1, one transformation at a time. -/
theorem test_aes_round_one :
    subBytes 0x00102030405060708090A0B0C0D0E0F0#128 = 0x63CAB7040953D051CD60E0E7BA70E18C#128 ∧
      shiftRows 0x63CAB7040953D051CD60E0E7BA70E18C#128 = 0x6353E08C0960E104CD70B751BACAD0E7#128 ∧
      mixColumns 0x6353E08C0960E104CD70B751BACAD0E7#128 = 0x5F72641557F5BC92F7BE3B291DB9F91A#128 ∧
      addRoundKey (keyExpansion keyKc) 1 0x5F72641557F5BC92F7BE3B291DB9F91A#128 =
        0x89D810E8855ACE682D1843D8CB128FE4#128 := by decide +kernel

/-- Section 2.2, round keys 1 and 10 of K1. -/
theorem test_key_expansion :
    roundKey keyK1 1 = 0xA0FAFE1788542CB123A339392A6C7605#128 ∧
      roundKey keyK1 10 = 0xD014F9A8C9EE2589E13F0CC8B6630CA6#128 := by decide +kernel

/-- Section 2.2, field arithmetic. -/
theorem test_field_arithmetic :
    xtime 0x57#8 = 0xAE#8 ∧ xtime 0xAE#8 = 0x47#8 ∧ gfMul 0x57#8 0x13#8 = 0xFE#8 ∧ sbox 0x00#8 = 0x63#8 ∧
      sbox 0x53#8 = 0xED#8 := by decide +kernel

/-- Section 2.3, T4: a partial second block, and the counter after it (section 1.2). -/
theorem test_ctr_vector :
    ctrXor ((List.range 20).map fun i => BitVec.ofNat 8 (0x40 + i)) 0x000102030405060708090A0B0C0DFFFE#128
        (keyExpansion keyKc) =
      ([0xB3#8, 0x02#8, 0x09#8, 0x97#8, 0x4E#8, 0x3B#8, 0xC9#8, 0xC2#8, 0x3B#8, 0xE2#8, 0x50#8, 0x5C#8, 0xA1#8,
        0x81#8, 0x19#8, 0xB0#8, 0x6D#8, 0x9E#8, 0xC6#8, 0xDD#8], 0x000102030405060708090A0B0C0E0000#128) := by
  decide +kernel

/-- Section 2.3, T3: the counter wraps at 2^128. -/
theorem test_ctr_wraps :
    (ctrXor (List.replicate 32 0x00#8) 0xFFFFFFFFFFFFFFFFFFFFFFFFFFFFFFFF#128 (keyExpansion keyKc)).2 = 1#128 ∧
      ((ctrXor (List.replicate 32 0x00#8) 0xFFFFFFFFFFFFFFFFFFFFFFFFFFFFFFFF#128 (keyExpansion keyKc)).1).getD 16 0#8 =
        0xC6#8 := by decide +kernel

/-- Section 2.4: bytes 0, 9 and 11 of the header never reach the IV. -/
theorem test_iv_of_counting_header :
    deriveIv (fun k => BitVec.ofNat 8 (0x11 * k)) = 0x1122334455667788AACCDDEEFF000000#128 := by decide +kernel

/-- Section 2.5. -/
theorem test_address_match :
    addrMatch (loaded bodyC) = true ∧ addrMatch { loaded bodyC with meterId := 0x78563412#32 } = false ∧
      addrMatch { loaded bodyC with meterId := 0x12345679#32 } = false := by decide +kernel

/-! ### The frame pass, one pass each -/

/-- Section 2.7, C. -/
theorem test_pass_compact :
    passView 37 (loaded bodyC) =
      (.readingOk, 0x20D220D2#32, 0x00002710#32, 0x0000251C#32, 0x0079150E#32) := by decide +kernel

/-- The bytes after the header of frame L. -/
def bodyL : List Byte :=
  [0xEA#8, 0x22#8, 0xE1#8, 0x83#8, 0x2D#8, 0x38#8, 0xCF#8, 0x04#8, 0x18#8, 0xF1#8, 0x65#8, 0x53#8, 0x1F#8, 0x0A#8,
    0xDB#8, 0x0C#8, 0x0E#8, 0xD2#8, 0x09#8, 0x9D#8, 0xB4#8, 0x6D#8, 0xBF#8, 0x8B#8, 0x7C#8, 0x36#8, 0xF1#8, 0xE9#8,
    0x25#8, 0x09#8, 0x00#8, 0x00#8]

/-- Section 2.7, L. -/
theorem test_pass_long :
    passView 48 (loaded bodyL) = (.readingOk, 0x0E590E59#32, 0x0001E240#32, 0x0001D4C0#32, 0x00781209#32) := by
  decide +kernel

/-- The bytes after the header of M18. -/
def bodyM18 : List Byte :=
  [0x02#8, 0x38#8, 0xE0#8, 0x93#8, 0x3D#8, 0x28#8, 0xDF#8, 0x14#8, 0x08#8, 0x56#8, 0x02#8, 0xB1#8, 0x1E#8, 0x16#8,
    0x42#8, 0xB1#8, 0xCE#8, 0x08#8, 0x00#8, 0x00#8]

/-- The bytes after the header of M29. -/
def bodyM29 : List Byte :=
  [0xBD#8, 0x43#8, 0xE1#8, 0x83#8, 0x2D#8, 0x38#8, 0xCF#8, 0x04#8, 0x18#8, 0xF1#8, 0x65#8, 0x53#8, 0x1F#8, 0x0A#8,
    0xDB#8, 0x0C#8, 0x0E#8, 0xD2#8, 0x09#8, 0x9D#8, 0xB4#8, 0x6D#8, 0xBF#8, 0x8B#8, 0x7C#8, 0x36#8, 0xF1#8, 0xE9#8,
    0x25#8, 0x00#8, 0x00#8]

/-- Section 2.7, M18, M29: one byte short of each layout's minimum, with a right CRC. -/
theorem test_pass_below_the_layouts_minimum :
    passView 36 (loaded bodyM18) = (.payloadShort, 0x14B114B1#32, 0#32, 0#32, 0#32) ∧
      passView 47 (loaded bodyM29) = (.payloadShort, 0x6F0E6F0E#32, 0#32, 0#32, 0#32) := by decide +kernel

/-- Section 2.7, S18, S19, S20a, S20b: every short end of a pass. -/
theorem test_pass_short_ends :
    passView 18 (loaded [0x00#8, 0x00#8]) = (.cipherLength, 0#32, 0#32, 0#32, 0#32) ∧
      passView 19 (loaded [0x00#8, 0x00#8, 0x00#8]) = (.payloadShort, 0#32, 0#32, 0#32, 0#32) ∧
      passView 20 (loaded [0x4C#8, 0xD3#8, 0x00#8, 0x00#8]) = (.payloadShort, 0xFFFFFFFF#32, 0#32, 0#32, 0#32) ∧
      passView 20 (loaded [0xB3#8, 0x2C#8, 0x00#8, 0x00#8]) = (.crcMismatch, 0x0000FFFF#32, 0#32, 0#32, 0#32) := by
  decide +kernel

/-- The bytes after the header of U1. -/
def bodyU1 : List Byte :=
  [0xCD#8, 0xA9#8, 0xE3#8, 0x93#8, 0x3D#8, 0x28#8, 0xDF#8, 0x14#8, 0x08#8, 0x56#8, 0x02#8, 0xB1#8, 0x1E#8, 0x16#8,
    0x42#8, 0xB1#8, 0xCE#8, 0x08#8, 0x1D#8, 0x00#8, 0x00#8]

/-- Section 2.7, U1, U2: the CRC is checked before the CI (90_conflicts.md C2). -/
theorem test_pass_crc_before_ci :
    passView 37 (loaded bodyU1) = (.unknownCi, 0x857E857E#32, 0#32, 0#32, 0#32) ∧
      passView 37 (loaded (0xCC#8 :: bodyU1.tail)) = (.crcMismatch, 0x857F857E#32, 0#32, 0#32, 0#32) := by
  decide +kernel

/-- Section 2.6, Q12: a second reading on an uncleared first one sets EV_OVR. -/
theorem test_pass_overrun :
    (framePass 37 { loaded bodyC with events := { EventBits.clear with reading := true } }).events =
      { EventBits.clear with reading := true, ovr := true } := by decide +kernel

/-! ### The commands, one step each -/

/-- Section 2.8, first row; allowed while EN = 1 (40_host_commands.md R121). -/
theorem test_nop_while_enabled : (after (exec .nop armed)).cmdResult = .ok ∧ (after (exec .nop armed)).phase = .waitSync := by
  decide

/-- R123: a key loaded; the last round key of Kc. -/
theorem test_keyLoad_expands :
    (after (exec .keyLoad { idle with ks := keyKc })).rk[(10 : Fin 11)] = 0x13111D7FE3944A17F307A78B4D2B30C5#128 := by
  decide +kernel

/-- R121: BUSY, and the staged key is not activated. -/
theorem test_keyLoad_busy :
    (after (exec .keyLoad { armed with ks := keyKc })).cmdResult = .busy ∧
      (after (exec .keyLoad { armed with ks := keyKc })).k = keyK1 := by decide

/-- R124. -/
theorem test_start_arms :
    (after (exec .start ready)).phase = .waitSync ∧ (after (exec .start ready)).rearmEvents = [.rearm] := by decide

/-- R121: NOT_READY without the identity; no Rearm. -/
theorem test_start_notReady :
    (after (exec .start { ready with idValid := false })).cmdResult = .notReady ∧
      (after (exec .start { ready with idValid := false })).rearmEvents = [] := by decide

/-- Program P5: STOP in BODY is ABORTED, with no event bit. -/
theorem test_stop_aborts :
    (after (exec .stop (receiving .body []))).frameResult = .aborted ∧
      (after (exec .stop (receiving .body []))).events = EventBits.clear ∧
      (after (exec .stop (receiving .body []))).phase = .off := by decide

/-- R125: in WAIT_SYNC the result of the last attempt stays. -/
theorem test_stop_keeps_result :
    (after (exec .stop { armed with frameResult := .addressMiss })).frameResult = .addressMiss := by decide

/-- R126: a bad length is a warning; the command itself is OK. -/
theorem test_process_bad_length :
    (after (exec .process { ready with frameLen := 64#8 })).frameResult = .lengthInvalid ∧
      (after (exec .process { ready with frameLen := 64#8 })).cmdResult = .ok ∧
      (after (exec .process { ready with frameLen := 64#8 })).events = { EventBits.clear with warn := true } := by
  decide

/-- Program P3: PROCESS on frame C. -/
theorem test_process_frame :
    (after (exec .process (loaded bodyC))).totalRaw = 0x00002710#32 ∧
      (after (exec .process (loaded bodyC))).framesRx = 0#32 := by decide +kernel

/-- Section 2.4, header H. -/
theorem test_deriveIv_header :
    (after (exec .deriveIv (loaded bodyC))).ivr = 0x2D2C785634121B162031020000000000#128 := by decide +kernel

/-- Section 2.3, T2, at an offset: 17 bytes, the last from the second block. -/
theorem test_ctr_partial_block :
    plainSlice (after (exec (.ctr 1 17) { readyWith keyKc with ivr := 0x00112233445566778899AABBCCDDEEFF#128 })) 0 19 =
      [0x00#8, 0x69#8, 0xC4#8, 0xE0#8, 0xD8#8, 0x6A#8, 0x7B#8, 0x04#8, 0x30#8, 0xD8#8, 0xCD#8, 0xB7#8, 0x80#8, 0x70#8,
        0xB4#8, 0xC5#8, 0x5A#8, 0xDD#8, 0x00#8] := by decide +kernel

/-- Section 2.8: the operand ranges of CTR. -/
theorem test_ctr_operands :
    (after (exec (.ctr 0 0) ready)).cmdResult = .badOperand ∧ (after (exec (.ctr 1 48) ready)).cmdResult = .badOperand ∧
      (after (exec (.ctr 63 48) ready)).cmdResult = .badOperand ∧
      checkCommand (.ctr 0 48) ready = .ok := by decide

/-- Section 2.1 through the command, at an offset. -/
theorem test_crc_command :
    (after (exec (.crc 39 9) (withPlain (List.replicate 39 0#8 ++
      [0x31#8, 0x32#8, 0x33#8, 0x34#8, 0x35#8, 0x36#8, 0x37#8, 0x38#8, 0x39#8]) idle))).calcCrc = 0xC2B7#16 := by
  decide +kernel

/-- Section 2.8: the operand range of CRC; N = 0 is allowed and gives 0xFFFF. -/
theorem test_crc_operands :
    (after (exec (.crc 48 0) idle)).calcCrc = 0xFFFF#16 ∧ (after (exec (.crc 49 0) idle)).cmdResult = .badOperand := by
  decide

/-- Section 2.2, FIPS-197 C.1, in the last block of PLAIN_BUF. -/
theorem test_aesBlock_last_block :
    plainSlice (after (exec (.aesBlock 32) (withPlain (List.replicate 32 0#8 ++
        blockBytes 0x00112233445566778899AABBCCDDEEFF#128) (readyWith keyKc)))) 31 17 =
      0x00#8 :: blockBytes 0x69C4E0D86A7B0430D8CDB78070B4C55A#128 := by decide +kernel

/-- Section 2.8: A = 33 is out of range. -/
theorem test_aesBlock_operand : (after (exec (.aesBlock 33) ready)).cmdResult = .badOperand := by decide

/-- 70_reset_and_hazards.md R332: allowed in any state, CMD_RESULT = OK, key and identity gone, `rxq` kept. -/
theorem test_softReset_clears :
    (after (exec .softReset (receiving .body [0x01#8]))).cmdResult = .ok ∧
      (after (exec .softReset (receiving .body [0x01#8]))).keyValid = false ∧
      (after (exec .softReset (receiving .body [0x01#8]))).phase = .off ∧
      (after (exec .softReset (receiving .body [0x01#8]))).rxq = [0x01#8] := by decide

/-- Each command runs as the first step after reset, opaque drawn values and all. -/
theorem test_first_step_runs :
    (after (step (State.reset.withFetchWord 32 0x00000000))).cmdResult = .ok ∧
      (after (step (State.reset.withFetchWord 32 0x00000001))).keyValid = true ∧
      (after (step (State.reset.withFetchWord 32 0x00000002))).cmdResult = .notReady ∧
      (after (step (State.reset.withFetchWord 32 0x00000005))).cmdResult = .ok ∧
      (after (step (State.reset.withFetchWord 32 0x00103F06))).cmdResult = .notReady ∧
      (after (step (State.reset.withFetchWord 32 0x00300007))).cmdResult = .ok ∧
      (after (step (State.reset.withFetchWord 32 0x0000000F))).cmdResult = .ok := by decide +kernel

/-! ### The CORE and the bus, one step each -/

/-- Section 2.6, Q6: the length 0x40 is refused, one Rearm. -/
theorem test_length_refused :
    (coreStep (receiving .len [0x40#8])).frameResult = .lengthInvalid ∧
      (coreStep (receiving .len [0x40#8])).rearmEvents = [.rearm] ∧
      (coreStep (receiving .len [0x40#8])).phase = .waitSync := by decide

/-- Section 2.6, Q3: the preamble in the wrong order. -/
theorem test_preamble_swapped :
    (coreStep { receiving .pre1 [0x54#8] with preByte0 := 0x3D#8 }).frameResult = .preambleMiss ∧
      (coreStep { receiving .pre1 [0x54#8] with preByte0 := 0x3D#8 }).events = { EventBits.clear with drop := true } := by
  decide

/-- 41_acquisition.md R165, R166: the last byte of a body of 18. -/
theorem test_body_last_byte :
    (coreStep { receiving .body [0xAB#8] with frameLen := 18#8, bodyCnt := 17#6 }).phase = .proc ∧
      frameByte (coreStep { receiving .body [0xAB#8] with frameLen := 18#8, bodyCnt := 17#6 }) 17 = 0xAB#8 ∧
      (coreStep { receiving .body [0xAB#8] with frameLen := 18#8, bodyCnt := 17#6 }).framesRx = 1#32 := by decide +kernel

/-- 20_memory.md R67: the word read at 0x100 holds byte 0 in bits 31:24. -/
theorem test_frame_word_lanes : (memRead 0x100#12 (loaded bodyC)).1 = 0x442D2C78#32 := by decide +kernel

/-- 20_memory.md R64, R65: a misaligned and an unmapped address; the first hole and the first address past the map. -/
theorem test_access_errors :
    (memRead 0x102#12 idle).2.events.accErr = true ∧ (memRead 0x01C#12 idle).2.events.accErr = true ∧
      (memRead 0x170#12 idle).2.events.accErr = true ∧ (memRead 0x16C#12 idle).2.events.accErr = false := by
  decide +kernel

/-- 20_memory.md R66: METER_ID is locked while EN = 1; STATUS is not. -/
theorem test_lock :
    (after (memWrite 0x010#12 0x0#32 armed)).meterId = 0x12345678#32 ∧
      (after (memWrite 0x010#12 0x0#32 armed)).events.accErr = true ∧
      (after (memWrite 0x000#12 0x00200000#32 { armed with events := { EventBits.clear with accErr := true } })).events =
        EventBits.clear := by decide

/-- 10_state.md R22, R23: EN, KEY_VALID, ID_VALID and PHASE = 1. -/
theorem test_status_word : statusWord armed = 0x00000017#32 ∧ statusWord (receiving .proc []) = 0x00000067#32 := by decide

/-- 10_state.md R33: the key staging reads 0; word 1 of the staging is bytes 4 to 7. -/
theorem test_key_write_only :
    (memRead 0x024#12 (after (memWrite 0x024#12 0xAABBCCDD#32 idle))).1 = 0#32 ∧
      (after (memWrite 0x024#12 0xAABBCCDD#32 idle)).ks = 0x00000000AABBCCDD0000000000000000#128 := by decide

/-- Section 1.7: 50 litres in an hour are 50 litres an hour; the rollback is not published. -/
theorem test_flow_rate :
    flowRate (some ⟨10, 0⟩) ⟨10050 / 1000, 0, 0, 0, 3600000⟩ = some 50 ∧
      flowRate (some ⟨10050 / 1000, 3600000⟩) ⟨9, 0, 0, 0, 3600100⟩ = none ∧
      flowRate none ⟨10, 0, 0, 0, 0⟩ = none := by decide +kernel

/-- 30_encoding.md R96: SETKEY is four staging writes and KEY_LOAD; LOAD pads its last word with zeros. -/
theorem test_program_forms :
    progSetKey 1#32 2#32 3#32 4#32 =
        [.hostWrite 0x020#12 1#32, .hostWrite 0x024#12 2#32, .hostWrite 0x028#12 3#32, .hostWrite 0x02C#12 4#32,
          .hostWrite 0x008#12 1#32] ∧
      progLoadFrame [0x44#8, 0x2D#8, 0x2C#8, 0x78#8, 0x56#8] =
        [.hostWrite 0x100#12 0x442D2C78#32, .hostWrite 0x104#12 0x56000000#32] := by decide

/-- 60_exceptions.md R322 with the lane order of 20_memory.md R67: eight hex digits are METER_ID; a shorter string
causes no register write. -/
theorem test_configuration_strings :
    hexDigit 'g' = none ∧ hexDigit '/' = none ∧ hexDigit ':' = none ∧
    progIdentityString ['1', '2', '3', '4', '5', '6', '7', '8'] = [.hostWrite 0x010#12 0x12345678#32] ∧
      progIdentityString ['a', 'B', 'c', 'D', 'e', 'F', '0', '9'] = [.hostWrite 0x010#12 0xABCDEF09#32] ∧
      progIdentityString ['1', '2', '3', '4', '5', '6', '7'] = [] := by decide

/-! ### Witnesses: for each statement with hypotheses, a state and operands that meet them, clause by clause -/

/-- The word meets no row of the opcode table. -/
theorem no_row {w : Word} (h : w &&& 0xFFFFFFFF#32 ≠ 0#32 ∧ w &&& 0xFFFFFFFF#32 ≠ 1#32 ∧ w &&& 0xFFFFFFFF#32 ≠ 2#32 ∧
    w &&& 0xFFFFFFFF#32 ≠ 3#32 ∧ w &&& 0xFFFFFFFF#32 ≠ 4#32 ∧ w &&& 0xFFFFFFFF#32 ≠ 5#32 ∧
    w &&& 0xFFC0C0FF#32 ≠ 6#32 ∧ w &&& 0xFFC0C0FF#32 ≠ 7#32 ∧ w &&& 0xFFFFC0FF#32 ≠ 8#32 ∧
    w &&& 0xFFFFFFFF#32 ≠ 15#32) : ∀ i, ¬ rowHit w i := by
  intro i
  cases i <;> simp only [rowHit, rowMask, opcode] <;> tauto

theorem witness_DecodeOfEncodeIsTheCommand :
    (Instr.ctr 0 0).WellFormed ∧ (Instr.crc 63 63).WellFormed ∧ (Instr.aesBlock 63).WellFormed ∧
      Instr.nop.WellFormed := by decide

theorem witness_EncodeOfDecodeIsTheWord :
    decode 0x003F3F06#32 = .ok (.ctr 63 63) ∧ decode 0x00003F08#32 = .ok (.aesBlock 63) := by decide

theorem witness_DecoderFindsExactlyOneRowOrNone :
    rowHit 0x003F3F07#32 (.crc 63 63) ∧ decode 0x003F3F07#32 = .ok (.crc 63 63) ∧ rowHit 0x00003F08#32 (.aesBlock 0) ∧
      ∀ i, ¬ rowHit 0x0000000E#32 i :=
  ⟨by decide, by decide, by decide, no_row (by decide)⟩

theorem witness_IllegalWordsExecuteNothing :
    (∀ i, ¬ rowHit 0x00000009#32 i) ∧ (∀ i, ¬ rowHit 0x0000000E#32 i) ∧ (∀ i, ¬ rowHit 0x00000010#32 i) ∧
      (∀ i, ¬ rowHit 0xFFFFFFFF#32 i) ∧ (0x00010008#32 : Word).toNat % 256 = opcode (.aesBlock 0) ∧
      ¬ rowHit 0x00010008#32 (.aesBlock 0) :=
  ⟨no_row (by decide), no_row (by decide), no_row (by decide), no_row (by decide), by decide, by decide⟩

/-- An action is next, and no pass is pending. -/
def takingNext (act : Machine.Action) : State := { ready with agenda := [act] }

/-- For every clause: a command, a CORE turn both ways, a host read, a host write elsewhere than CMD, a reset. -/
theorem witness_StepRunsTheDecodedCommand :
    ({ ready with agenda := [.hostWrite 0x008#12 0x2#32] } : State).agenda = .hostWrite 0x008#12 0x2#32 :: [] ∧
      decode 0x2#32 = .ok .start ∧ ready.phase ≠ .proc ∧ decodeTableWord 32 0x00303F06 = some (.ctr 63 48) ∧
      ready.agenda = [] ∧ (takingNext .core).agenda = .core :: [] ∧
      (takingNext (.hostRead 0x16C#12)).agenda = .hostRead 0x16C#12 :: [] ∧
      (takingNext (.hostRead 0x16C#12)).phase ≠ .proc ∧
      (takingNext (.hostWrite 0x101#12 0xFFFFFFFF#32)).agenda = .hostWrite 0x101#12 0xFFFFFFFF#32 :: [] ∧
      (takingNext (.hostWrite 0x101#12 0xFFFFFFFF#32)).phase ≠ .proc ∧
      (takingNext .resetInput).agenda = .resetInput :: [] := by decide

/-- A pass pending on frame C, the HOST held with a read, then with a write. -/
def held (act : Machine.Action) : State := { loaded bodyC with en := true, phase := .proc, agenda := [act] }

theorem witness_HostIsHeldForExactlyOnePass :
    (held (.hostRead 0x000#12)).agenda = .hostRead 0x000#12 :: [] ∧ (held (.hostRead 0x000#12)).phase = .proc ∧
      (held (.hostWrite 0x008#12 0x3#32)).agenda = .hostWrite 0x008#12 0x3#32 :: [] ∧
      (held (.hostWrite 0x008#12 0x3#32)).phase = .proc := by decide

/-- A state in BODY meets the invariant, and its step answers a next state. -/
theorem witness_EveryStepKeepsTheInvariant :
    ∃ s t : State, s.Inv ∧ s.phase = .body ∧ step s = .next t :=
  ⟨{ receiving .body [0xAB#8] with frameLen := 18#8, bodyCnt := 17#6 }, _,
    ⟨by decide +kernel, by decide, by decide, fun _ => rfl, by decide, by decide, by decide, by decide, by decide,
      by decide, by decide⟩, rfl, rfl⟩

/-- The step a host write makes. -/
def writeNext (a : BusAddr) (v : Word) (s : State) : State := { s with agenda := [.hostWrite a v] }

theorem witness_AcquisitionIsSwitchedOnlyByCommands :
    (∃ t, step (writeNext 0x008#12 0x2#32 ready) = .next t ∧ ready.en = false ∧ t.en = true) ∧
      (∃ t, step (writeNext 0x008#12 0x3#32 armed) = .next t ∧ armed.en = true ∧ t.en = false) ∧
      (∃ t, step { armed with agenda := [.resetInput] } = .next t ∧ t.en = false) :=
  ⟨⟨_, rfl, by decide, by decide⟩, ⟨_, rfl, by decide, by decide⟩, ⟨_, rfl, by decide⟩⟩

theorem witness_KeyChangesOnlyByLoadOrReset :
    (∃ t, step (writeNext 0x008#12 0x1#32 { idle with ks := keyKc }) = .next t ∧ t.keyValid ≠ idle.keyValid) ∧
      (∃ t, step (writeNext 0x020#12 0x1#32 idle) = .next t ∧ t.ks ≠ idle.ks) ∧
      (∃ t, step (writeNext 0x02C#12 0x1#32 idle) = .next t ∧ t.ks ≠ idle.ks) ∧
      (∃ t, step (writeNext 0x008#12 0xF#32 ready) = .next t ∧ t.ks ≠ ready.ks ∧ t.k ≠ ready.k) :=
  ⟨⟨_, rfl, by decide⟩, ⟨_, rfl, by decide⟩, ⟨_, rfl, by decide⟩, ⟨_, rfl, by decide, by decide⟩⟩

theorem witness_IdentityChangesOnlyByWriteOrReset :
    (∃ t, step (writeNext 0x010#12 0x0#32 idle) = .next t ∧ t.idValid ≠ idle.idValid) ∧
      (∃ t, step (writeNext 0x008#12 0xF#32 ready) = .next t ∧ t.meterId ≠ ready.meterId) :=
  ⟨⟨_, rfl, by decide⟩, ⟨_, rfl, by decide⟩⟩

theorem witness_EventBitsAreClearedOnlyByHostOrReset :
    (∃ t, step (writeNext 0x000#12 0x00010000#32 { idle with events := { EventBits.clear with reading := true } }) =
        .next t ∧ (statusWord t).getLsbD 16 = false) ∧
      (∃ t, step (writeNext 0x000#12 0x00200000#32 { idle with events := { EventBits.clear with accErr := true } }) =
        .next t ∧ (statusWord t).getLsbD 21 = false) ∧
      (statusWord { idle with events := { EventBits.clear with reading := true } }).getLsbD 16 = true ∧
      (statusWord { idle with events := { EventBits.clear with accErr := true } }).getLsbD 21 = true :=
  ⟨⟨_, rfl, by decide⟩, ⟨_, rfl, by decide⟩, by decide, by decide⟩

theorem witness_ReadingChangesOnlyByCommit :
    (∃ t, step (held .core) = .next t ∧ readingOf t ≠ readingOf (held .core)) ∧
      (∃ t, step (writeNext 0x008#12 0x4#32 (loaded bodyC)) = .next t ∧ readingOf t ≠ readingOf (loaded bodyC)) :=
  ⟨⟨_, rfl, by decide +kernel⟩, ⟨_, rfl, by decide +kernel⟩⟩

/-- A reading is in the result registers and acknowledged; of the host's four accesses, which clear another event and
read the three registers, the first `k` are done. -/
def readingTaken (k : Nat) : State :=
  { idle with
    resValid := true, totalRaw := 0x00002710#32, monthRaw := 0x0000251C#32, flowTemp := 0x0E#8, ambientTemp := 0x15#8,
    readingCi := 0x79#8,
    busReads := [0x00002710#32, 0x0000251C#32, 0x0079150E#32].take (k - 1)
    agenda :=
      [.hostWrite 0x000#12 0x00020000#32, .hostRead 0x040#12, .hostRead 0x044#12, .hostRead 0x048#12].drop k }

theorem readingTaken_step (k : Nat) (h : k < 4) : step (readingTaken k) = .next (readingTaken (k + 1)) := by
  interval_cases k <;> rfl

/-- The only run of `m` steps from the first of these states ends in state `m`. -/
theorem readingTaken_runs (k m : Nat) (u : State) (hm : k + m ≤ 4) (h : runs m (readingTaken k) u) :
    u = readingTaken (k + m) := by
  induction m generalizing k with
  | zero => exact h.symm
  | succ m ih =>
    obtain ⟨v, hv, hr⟩ := h
    rw [readingTaken_step k (by omega)] at hv
    cases hv
    rw [ih (k + 1) (by omega) hr, Nat.add_right_comm, Nat.add_assoc]

theorem witness_NoReadingIsTorn :
    runs 4 (readingTaken 0) (readingTaken 4) ∧ (readingTaken 4).events.reading = false ∧
      (∀ (m : Nat) (u : State), m < 4 → runs m (readingTaken 0) u → ¬ takesReset u ∧
        ∀ v, takenAction u = some (.hostWrite 0x000#12 v) → v.getLsbD 16 = false) ∧
      (∀ k, k < 4 → runs k (readingTaken 0) (readingTaken k)) ∧
      takenAction (readingTaken 1) = some (.hostRead 0x040#12) ∧
      takenAction (readingTaken 2) = some (.hostRead 0x044#12) ∧
      takenAction (readingTaken 3) = some (.hostRead 0x048#12) := by
  have r1 := readingTaken_step 0 (by decide)
  have r2 := readingTaken_step 1 (by decide)
  have r3 := readingTaken_step 2 (by decide)
  have r4 := readingTaken_step 3 (by decide)
  refine ⟨⟨_, r1, _, r2, _, r3, _, r4, rfl⟩, rfl, fun m u hm hu => ?_, fun k hk => ?_, rfl, rfl, rfl⟩
  · rw [readingTaken_runs 0 m u (by omega) hu]
    clear hu
    interval_cases m
    · exact ⟨by decide, fun v hv => by cases hv; decide⟩
    all_goals exact ⟨by decide, fun v hv => by cases hv⟩
  · interval_cases k
    exacts [rfl, ⟨_, r1, rfl⟩, ⟨_, r1, _, r2, rfl⟩, ⟨_, r1, _, r2, _, r3, rfl⟩]

theorem witness_ReceivedBytesAreTakenInOrder :
    (∃ t, step (receiving .pre0 [0x54#8]) = .next t ∧ t.rxq = []) ∧
      (∃ t, step { idle with agenda := [.radioByte 0x54#8] } = .next t ∧ t.rxq = [0x54#8]) ∧
      (∃ t, step { receiving .off [0x54#8] with agenda := [.radioFlush] } = .next t ∧ t.rxq = []) :=
  ⟨⟨_, rfl, by decide⟩, ⟨_, rfl, by decide⟩, ⟨_, rfl, by decide⟩⟩

theorem witness_RearmIsEmittedExactlyAtAttemptEndsAndStart :
    (∃ t, step (receiving .len [0x40#8]) = .next t ∧ takesCoreTurn (receiving .len [0x40#8]) ∧ t.phase = .waitSync) ∧
      takesCommand (writeNext 0x008#12 0x2#32 ready) 0x2#32 ∧
      (∃ t, step (writeNext 0x008#12 0x3#32 armed) = .next t ∧ ¬ takesCoreTurn (writeNext 0x008#12 0x3#32 armed) ∧
        ¬ takesCommand (writeNext 0x008#12 0x3#32 armed) 0x2#32) :=
  ⟨⟨_, rfl, .inl rfl, by decide⟩, rfl, ⟨_, rfl, by decide, by decide⟩⟩

theorem witness_CoreMovesExactlyWhenEnabled :
    coreStep (receiving .waitSync []) ≠ receiving .waitSync [] ∧ coreStep armed = armed ∧
      coreStep (receiving .body []) = receiving .body [] := by decide +kernel

theorem witness_SyncDetectionIsALowLevel :
    armed.phase = .waitSync ∧ armed.syncN = true ∧ (receiving .waitSync []).phase = .waitSync ∧
      (receiving .waitSync []).syncN = false := by decide

theorem witness_PreambleByteZeroIsStored :
    (receiving .pre0 [0x00#8]).phase = .pre0 ∧ (receiving .pre0 [0x00#8]).rxq = 0x00#8 :: [] ∧
      (receiving .pre0 []).rxq = [] := by decide

theorem witness_PreamblePairIsCompared :
    ({ receiving .pre1 [0x3D#8] with preByte0 := 0x54#8 } : State).preByte0 = 0x54#8 ∧
      (receiving .pre1 [0x3D#8]).phase = .pre1 ∧ (receiving .pre1 [0x3D#8]).rxq = 0x3D#8 :: [] ∧
      (receiving .pre1 [0x3D#8]).preByte0 ≠ 0x54#8 ∧ (receiving .pre1 []).rxq = [] := by decide

/-- Lengths 18 and 63 are valid, 17 and 64 are not. -/
theorem witness_LengthByteIsValidated :
    (receiving .len [18#8]).phase = .len ∧ (receiving .len [18#8]).rxq = 18#8 :: [] ∧ 18 ≤ (18#8 : Byte).toNat ∧
      (63#8 : Byte).toNat ≤ 63 ∧ (17#8 : Byte).toNat < 18 ∧ 63 < (64#8 : Byte).toNat ∧ (receiving .len []).rxq = [] := by
  decide

/-- The last byte of a body of 63, and the one before it. -/
theorem witness_BodyByteIsStored :
    ({ receiving .body [0x01#8] with frameLen := 63#8, bodyCnt := 62#6 } : State).phase = .body ∧
      lenOk (63#8 : Byte).toNat = true ∧ (62#6 : BitVec 6).toNat + 1 = (63#8 : Byte).toNat ∧
      (61#6 : BitVec 6).toNat + 1 < (63#8 : Byte).toNat ∧ (receiving .body [0x01#8]).rxq = 0x01#8 :: [] := by decide

theorem witness_SyncLevelIsIgnoredInsideAFrame :
    (receiving .body [0x01#8]).phase ≠ .waitSync ∧ (held .core).phase ≠ .waitSync := by decide

/-- Frames of 18 and of 63 bytes wait in `rxq`, one byte behind each. -/
theorem witness_RadioPathReceivesAWholeFrame :
    (∃ (s : State) (frame rest : List Byte), s.phase = .waitSync ∧ s.syncN = false ∧ frame.length = 18 ∧
        s.rxq = 0x54#8 :: 0x3D#8 :: BitVec.ofNat 8 frame.length :: (frame ++ rest)) ∧
      (∃ (s : State) (frame rest : List Byte), s.phase = .waitSync ∧ s.syncN = false ∧ frame.length = 63 ∧
        s.rxq = 0x54#8 :: 0x3D#8 :: BitVec.ofNat 8 frame.length :: (frame ++ rest)) :=
  ⟨⟨receiving .waitSync (0x54#8 :: 0x3D#8 :: 18#8 :: (List.replicate 18 0#8 ++ [0x54#8])), List.replicate 18 0#8,
      [0x54#8], rfl, rfl, by decide, by decide⟩,
    ⟨receiving .waitSync (0x54#8 :: 0x3D#8 :: 63#8 :: (List.replicate 63 0#8 ++ [0x54#8])), List.replicate 63 0#8,
      [0x54#8], rfl, rfl, by decide, by decide⟩⟩

/-- Every clause of the stage order: another address; lengths 18, 19; a bad CRC at 20; a good one at 20. -/
theorem witness_PassResultFollowsTheStageOrder :
    ¬ addressed { loaded bodyC with meterId := 0#32 } ∧ addressed (loaded [0x00#8, 0x00#8]) ∧
      payloadStoredCrc (loaded [0xB3#8, 0x2C#8, 0x00#8, 0x00#8]) ≠
        payloadCrc (loaded [0xB3#8, 0x2C#8, 0x00#8, 0x00#8]) 2 ∧
      payloadStoredCrc (loaded [0x4C#8, 0xD3#8, 0x00#8, 0x00#8]) =
        payloadCrc (loaded [0x4C#8, 0xD3#8, 0x00#8, 0x00#8]) 2 := by
  decide +kernel

/-- The plaintext of the first `cl` bytes behind the header, in one run of the counter mode. -/
def plaintext (cl : Nat) (s : State) : List Byte := (ctrXor (frameSlice s 16 cl) (deriveIv (frameByte s)) s.rk).1

theorem payloadByte_eq_plaintext (s : State) (cl j : Nat) (h : j < cl) :
    payloadByte s j = (plaintext cl s).getD j 0#8 := by
  unfold plaintext ctrXor
  rw [ctrBlocks_getD _ _ _ _ _ (by simp [frameSlice]; omega) (by simp [frameSlice]; omega), frameSlice,
    slice_getD _ _ _ _ h]
  rfl

theorem payloadCrc_eq_plaintext (s : State) (cl : Nat) : payloadCrc s cl = crc16 ((plaintext cl s).drop 2) := by
  unfold payloadCrc
  congr 1
  apply List.ext_getElem
  · simp [plaintext, frameSlice]
  · intro j h _
    simp only [List.length_map, List.length_range] at h
    have hl : 2 + j < (plaintext cl s).length := by simp [plaintext, frameSlice]; omega
    simp [payloadByte_eq_plaintext s cl (2 + j) (by omega), List.getElem?_eq_getElem hl]

/-- The frame is addressed to the identity, and its CRC is right, for a length whose bound `cl` is at least 3. -/
theorem right_crc {s : State} {cl : Nat} {ci : Byte} (h : 3 ≤ cl)
    (hp : addressed s ∧ (plaintext cl s).getD 1 0#8 ++ (plaintext cl s).getD 0 0#8 = crc16 ((plaintext cl s).drop 2) ∧
      (plaintext cl s).getD 2 0#8 = ci) :
    addressed s ∧ payloadStoredCrc s = payloadCrc s cl ∧ payloadByte s 2 = ci := by
  rw [payloadStoredCrc, payloadCrc_eq_plaintext, payloadByte_eq_plaintext s cl 0 (by omega),
    payloadByte_eq_plaintext s cl 1 (by omega), payloadByte_eq_plaintext s cl 2 (by omega)]
  exact hp

/-- Behind a right CRC, CI 0x79 at length 36 (vector M18 of section 2.7). -/
theorem witness_PassResultFollowsTheStageOrder_m18 :
    addressed (loaded bodyM18) ∧ payloadStoredCrc (loaded bodyM18) = payloadCrc (loaded bodyM18) (36 - 18) ∧
      payloadByte (loaded bodyM18) 2 = 0x79#8 := right_crc (by decide) (by decide +kernel)

/-- Behind a right CRC, CI 0x79 at length 37 (frame C). -/
theorem witness_PassResultFollowsTheStageOrder_c :
    addressed (loaded bodyC) ∧ payloadStoredCrc (loaded bodyC) = payloadCrc (loaded bodyC) (37 - 18) ∧
      payloadByte (loaded bodyC) 2 = 0x79#8 := right_crc (by decide) (by decide +kernel)

/-- Behind a right CRC, CI 0x78 at length 47 (M29). -/
theorem witness_PassResultFollowsTheStageOrder_m29 :
    addressed (loaded bodyM29) ∧ payloadStoredCrc (loaded bodyM29) = payloadCrc (loaded bodyM29) (47 - 18) ∧
      payloadByte (loaded bodyM29) 2 = 0x78#8 := right_crc (by decide) (by decide +kernel)

/-- Behind a right CRC, CI 0x78 at length 48 (frame L). -/
theorem witness_PassResultFollowsTheStageOrder_l :
    addressed (loaded bodyL) ∧ payloadStoredCrc (loaded bodyL) = payloadCrc (loaded bodyL) (48 - 18) ∧
      payloadByte (loaded bodyL) 2 = 0x78#8 := right_crc (by decide) (by decide +kernel)

/-- Behind a right CRC, a CI of neither layout (U1). -/
theorem witness_PassResultFollowsTheStageOrder_u1 :
    addressed (loaded bodyU1) ∧ payloadStoredCrc (loaded bodyU1) = payloadCrc (loaded bodyU1) (37 - 18) ∧
      payloadByte (loaded bodyU1) 2 = 0x7A#8 := right_crc (by decide) (by decide +kernel)

theorem witness_PassWritesWhatItReached :
    (framePass 18 (loaded [0x00#8, 0x00#8])).frameResult = .cipherLength ∧
      (framePass 19 (loaded [0x00#8, 0x00#8, 0x00#8])).frameResult = .payloadShort ∧
      (framePass 37 { loaded bodyC with meterId := 0#32 }).frameResult = .addressMiss ∧
      (framePass 37 (loaded (0xCC#8 :: bodyU1.tail))).frameResult = .crcMismatch ∧
      (framePass 37 (loaded bodyC)).frameResult = .readingOk := by decide +kernel

theorem witness_CommittedReadingHasTheLayoutsFields :
    (framePass 37 (loaded bodyC)).frameResult = .readingOk ∧ payloadByte (loaded bodyC) 2 = 0x79#8 ∧
      (framePass 48 (loaded bodyL)).frameResult = .readingOk ∧ payloadByte (loaded bodyL) 2 = 0x78#8 := by
  decide +kernel

theorem witness_NopChangesOnlyTheCommandResult :
    (0x00000100#32 : Word).toNat % 256 = 0x00 ∧ (0x00000100#32 : Word) ≠ 0x00000000#32 := by decide

/-- For `KeyLoadActivatesTheStagedKey`, `StartArmsTheReceiver`, `ProcessRunsAPassOnTheHostsFrame` and
`DeriveIvTakesTheHeaderBytes`: key and identity loaded, EN = 0, the lengths at their bounds. -/
theorem witness_commands_ready :
    ready.en = false ∧ ready.keyValid = true ∧ ready.idValid = true ∧
      18 ≤ ({ ready with frameLen := 18#8 } : State).frameLen.toNat ∧
      ({ ready with frameLen := 63#8 } : State).frameLen.toNat ≤ 63 ∧
      ({ ready with frameLen := 17#8 } : State).frameLen.toNat < 18 ∧
      63 < ({ ready with frameLen := 64#8 } : State).frameLen.toNat := by decide

theorem witness_StopEndsAcquisition :
    (receiving .pre0 []).en = true ∧ (receiving .pre0 []).phase ∈ [Phase.pre0, .pre1, .len, .body] ∧
      armed.en = true ∧ armed.phase ∉ [Phase.pre0, .pre1, .len, .body] ∧ idle.en = false := by decide

/-- For `CtrCommandXorsTheKeystream` and `CtrCommandTwiceRestoresTheData`: CTR over the whole buffer and over its last
byte, twice. -/
theorem witness_ctr_commands :
    ready.en = false ∧ ready.keyValid = true ∧ 1 ≤ 48 ∧ 0 + 48 ≤ 48 ∧ 47 + 1 ≤ 48 ∧
      ∃ t u, exec (.ctr 47 1) ready = .next t ∧ exec (.ctr 47 1) t = .next u :=
  ⟨by decide, by decide, by decide, by decide, by decide, _, _, rfl, rfl⟩

theorem witness_CrcCommandComputesTheCrc : idle.en = false ∧ 48 + 0 ≤ 48 ∧ 0 + 48 ≤ 48 := by decide

/-- AES_BLOCK on the last block, the input block read off the buffer. -/
theorem witness_AesBlockEncryptsInPlace :
    ready.en = false ∧ ready.keyValid = true ∧
      ∀ j, j < 16 → blockByte 0x00112233445566778899AABBCCDDEEFF#128 j =
        plainByte (withPlain (List.replicate 32 0#8 ++ blockBytes 0x00112233445566778899AABBCCDDEEFF#128) ready) (32 + j) := by
  decide +kernel

/-- For `ResetLeavesTheResetValues` and `NoReadRevealsTheKey`: mapped addresses at the ends of the map's parts;
unmapped ones beside them. -/
theorem witness_mapped :
    mapped 0x000 ∧ mapped 0x050 ∧ mapped 0x100 ∧ mapped 0x16C ∧ ¬ mapped 0x01C ∧ ¬ mapped 0x054 ∧ ¬ mapped 0x0FC ∧
      ¬ mapped 0x170 ∧ ¬ mapped 0xFFC :=
  ⟨by decide, by decide, by decide, by decide, by decide, by decide, by decide, by decide, by decide⟩

/-- For `ReadOnlyAndLockedWritesAreIgnored` and `AcceptedWritesReadBack`: the ends of each run of lockable registers,
and their neighbours. -/
theorem witness_lockable :
    lockable 0x010 ∧ lockable 0x014 ∧ lockable 0x020 ∧ lockable 0x03C ∧ lockable 0x100 ∧ lockable 0x16C ∧
      ¬ lockable 0x00C ∧ ¬ lockable 0x018 ∧ ¬ lockable 0x040 ∧ ¬ lockable 0x170 :=
  ⟨by decide, by decide, by decide, by decide, by decide, by decide, by decide, by decide, by decide, by decide⟩

theorem witness_MisalignedAndUnmappedAccessesAreIgnored :
    (0x101#12 : BusAddr).toNat % 4 ≠ 0 ∧ (0xFFF#12 : BusAddr).toNat % 4 ≠ 0 ∧ ¬ mapped (0x170#12 : BusAddr).toNat := by
  decide

theorem witness_ReadOnlyAndLockedWritesAreIgnored :
    (0x00C#12 : BusAddr).toNat ∈ [0x00C, 0x018, 0x040, 0x044, 0x048, 0x04C, 0x050] ∧ armed.en = true ∧
      lockable (0x16C#12 : BusAddr).toNat ∧ decode 0x2#32 = .ok .start := by
  decide

/-- Every check of R121 fails somewhere, ILLEGAL included. -/
theorem witness_CommandResultFollowsTheCheckOrder :
    (∃ i, rowHit 0x00000002#32 i) ∧ (∀ i, ¬ rowHit 0x00000100#32 i) ∧
      (after (memWrite 0x008#12 0x00000001#32 armed)).cmdResult = .busy ∧
      (after (memWrite 0x008#12 0x00000002#32 idle)).cmdResult = .notReady ∧
      (after (memWrite 0x008#12 0x00003107#32 idle)).cmdResult = .badOperand ∧
      (after (memWrite 0x008#12 0x00000100#32 idle)).cmdResult = .illegal :=
  ⟨⟨.start, by decide⟩, no_row (by decide), by decide, by decide, by decide, by decide⟩

theorem witness_FailedCommandChangesNothingElse :
    ∃ t, memWrite 0x008#12 0x00002108#32 ready = .next t ∧ t.cmdResult ≠ .ok := ⟨_, rfl, by decide⟩

theorem witness_AcceptedWritesReadBack :
    lockable (0x010#12 : BusAddr).toNat ∧ lockable (0x16C#12 : BusAddr).toNat ∧ ready.en = false ∧
      mapped (0x014#12 : BusAddr).toNat ∧ (0x014#12 : BusAddr) ≠ 0x010#12 ∧ (0x014#12 : BusAddr).toNat ≠ 0x000 ∧
      lockable (0x020#12 : BusAddr).toNat ∧ lockable (0x02C#12 : BusAddr).toNat ∧
      lockable (0x030#12 : BusAddr).toNat := by
  decide

theorem witness_StatusWordHoldsItsFields :
    (7 ≤ 7 ∧ 7 ≤ 15) ∧ (7 ≤ 15 ∧ 15 ≤ 15) ∧ 22 ≤ 22 ∧ 22 ≤ 31 := by decide

theorem witness_IrqIsTheMaskedOrOfTheEvents :
    irqEnWord idle = 0#32 ∧
      irq { idle with events := { EventBits.clear with accErr := true }, irqEn := { EventBits.clear with accErr := true } } =
        true ∧
      irq { idle with events := { EventBits.clear with accErr := true }, irqEn := { EventBits.clear with warn := true } } =
        false := by decide

/-- For `CounterModeIsAnInvolutionAndLocal`, `SboxTableIsItsDefinition`, `AesRoundTransformsActOnBytes` and
`KeyExpansionFollowsTheRecurrence`. -/
theorem witness_units :
    0 < [0x00#8].length ∧ (1#8 : Byte) ≠ 0#8 ∧ (3 : Nat) < 4 ∧ 4 ≤ 43 ∧ 43 < 44 ∧ 43 % 4 ≠ 0 ∧ 40 % 4 = 0 := by decide

theorem witness_RadioTouchesOnlyItsInputs :
    ({ held .radioFlush with rxq := [0x54#8] } : State).agenda = .radioFlush :: [] ∧
      (held (.radioByte 0x54#8)).agenda = .radioByte 0x54#8 :: [] ∧
      (held (.radioSync false)).agenda = .radioSync false :: [] := by decide

end Sys2Proof.Tests
end

section
/-! SUPPORT. The step at a given head of the agenda (00_scope.md R6, R7; 20_memory.md R62, R63, R72), and the
statement that a step is what its next action names. -/

namespace Sys2Proof.Machine

/-! ### The action at the head of the agenda -/

/-- With nothing on the agenda, no action is taken. -/
theorem takenAction_nil {s : State} (ha : s.agenda = []) : takenAction s = none := by
  simp [takenAction, ha]

/-- The head of the agenda is taken unless it is a held host access (R72). -/
theorem takenAction_cons {s : State} {act : Action} {rest : List Action} (ha : s.agenda = act :: rest)
    (hfree : act.isHost = true → s.phase ≠ .proc) : takenAction s = some act := by
  have hheld : (act.isHost && hostHeld s) = false := by simpa [hostHeld] using hfree
  simp [takenAction, ha, hheld]

theorem dropAction_cons {s : State} {act : Action} {rest : List Action} (ha : s.agenda = act :: rest) :
    dropAction s = { s with agenda := rest } := by
  simp [dropAction, ha]

/-- Where no action is taken, the CORE has its turn (log 2, 3). -/
theorem step_of_takenAction_none {s : State} (h : takenAction s = none) : step s = .next (coreStep s) := by
  rcases step_cases s with ⟨-, e⟩ | ⟨act, rest, -, ht, -⟩
  · exact e
  · simp [h] at ht

theorem step_of_takenAction_some {s : State} {act : Action} (h : takenAction s = some act) :
    step s = perform act (dropAction s) := by
  rcases step_cases s with ⟨hn, -⟩ | ⟨act', rest, -, ht, e⟩
  · simp [h] at hn
  · obtain rfl : act = act' := by simpa [h] using ht
    exact e

/-- The step at an agenda whose head is not held performs that head, in the state without it. -/
theorem step_cons {s : State} {act : Action} {rest : List Action} (ha : s.agenda = act :: rest)
    (hfree : act.isHost = true → s.phase ≠ .proc) : step s = perform act { s with agenda := rest } := by
  rw [step_of_takenAction_some (takenAction_cons ha hfree), dropAction_cons ha]

/-! ### A command word at CMD -/

/-- A word that decodes is executed (R120). -/
theorem writeCommand_ok {w : Word} {i : Instr} (hd : decode w = .ok i) (s : State) : writeCommand w s = exec i s := by
  simp [writeCommand, hd]

theorem decode_tableWord {nbits w : Nat} {i : Instr} (h : decodeTableWord nbits w = some i) :
    decode (tableWord nbits w) = .ok i := by
  unfold decodeTableWord at h
  split at h
  · rename_i j hj
    cases h
    exact hj
  · cases h

/-- With a word that decodes to `i` about to be written to CMD and no pass pending, the step is `exec i`. -/
theorem step_command {s : State} {w : Word} {rest : List Action} {i : Instr}
    (ha : s.agenda = .hostWrite cmdAddress w :: rest) (hp : s.phase ≠ .proc) (hd : decode w = .ok i) :
    step s = exec i { s with agenda := rest } :=
  calc step s = memWrite cmdAddress w { s with agenda := rest } := step_cons ha fun _ => hp
    _ = writeCommand w { s with agenda := rest } := memWrite_cmd w _
    _ = exec i { s with agenda := rest } := writeCommand_ok hd _

/-- A command word put first on the agenda of `s` is executed in `s` itself (log 10). -/
theorem step_withFetchWord {s : State} {nbits w : Nat} {i : Instr} (hp : s.phase ≠ .proc)
    (h : decodeTableWord nbits w = some i) : step (s.withFetchWord nbits w) = exec i s :=
  step_command (s := s.withFetchWord nbits w) (rest := s.agenda) rfl hp (decode_tableWord h)

/-- Settles O6: the head of the agenda is performed where it is not held, and an empty agenda is the CORE's turn. -/
theorem stepRunsTheDecodedCommand : Obligations.StepRunsTheDecodedCommand := by
  refine ⟨?command, ?fetched, ?empty, ?core, ?read, ?write, ?reset⟩
  case command => exact fun s w rest i ha hp hd => step_command ha hp hd
  case fetched => exact fun s nbits w i hp h => step_withFetchWord hp h
  case empty => exact fun s ha => step_of_takenAction_none (takenAction_nil ha)
  case core => exact fun s rest ha => step_cons ha (by simp [Action.isHost])
  case read => exact fun s a rest ha hp => step_cons ha fun _ => hp
  case write => exact fun s a v rest ha hp => step_cons ha fun _ => hp
  case reset => exact fun s rest ha => step_cons ha (by simp [Action.isHost])

end Sys2Proof.Machine
end

section
/-! SUPPORT. A step of the whole system sorted by what it may touch (00_scope.md R6, R7; 20_memory.md R63). -/

namespace Sys2Proof.Machine

open Sys2Proof.Claims

/-- A command of R93 without operands is taken as its one word. -/
theorem takesCommand_of_decode {s : State} {w : Word} {i : Instr}
    (h : takenAction s = some (.hostWrite cmdAddress w)) (hd : decode w = .ok i)
    (hi : ∀ a n, i ≠ .ctr a n ∧ i ≠ .crc a n ∧ i ≠ .aesBlock a) :
    takesCommand s (BitVec.ofNat 32 (opcode i)) := by
  rw [← word_of_decode hd hi]
  exact h

/-- The steps by what they may touch: no register but the events, their enables and `CMD_RESULT`; a turn of the
CORE; an accepted write of a locked register; a performed command; a reset. -/
inductive StepKind (s t : State) : Prop
  | quiet (hreading : t.events.reading = true → s.events.reading = true)
    (hovr : t.events.ovr = true → s.events.ovr = true)
    (e : t = { s with
      events := t.events, irqEn := t.irqEn, cmdResult := t.cmdResult, syncN := t.syncN, rxq := t.rxq,
      busReads := t.busReads, agenda := t.agenda })
  | core (b : State) (h : takesCoreTurn s) (hb : b = { s with agenda := b.agenda }) (e : t = coreStep b)
  | accepted (a : BusAddr) (v : Word) (r : Reg) (h : takenAction s = some (.hostWrite a v)) (hr : reached a = some r)
    (ha : r.access = .locked) (he : s.en = false) (e : t = writeLocked r v (dropAction s))
  | performed (w : Word) (i : Instr) (h : takenAction s = some (.hostWrite cmdAddress w)) (hd : decode w = .ok i)
    (hi : i ≠ .softReset) (hc : checkCommand i s = .ok) (e : t = setCmdResult .ok (commandEffect i (dropAction s)))
  | reset (r : CmdResult) (h : takesReset s) (e : t = setCmdResult r (resetBlock (dropAction s)))

theorem step_kinds {s t : State} (h : step s = .next t) : StepKind s t := by
  cases step_moves h with
  | core b hb e =>
    rcases hb with ⟨hn, rfl⟩ | ⟨ha, rfl⟩
    · exact .core b (.inl hn) rfl e
    · exact .core _ (.inr ha) rfl e
  | read a ha e =>
    subst e
    rcases hostRead_cases a (dropAction s) with e | ⟨w, e⟩ <;> rw [e] <;> exact .quiet id id rfl
  | ignored a v ha hr e => subst e; exact .quiet id id rfl
  | acknowledge v ha e =>
    subst e
    exact .quiet (fun h => (Bool.and_eq_true_iff.1 h).1) (fun h => (Bool.and_eq_true_iff.1 h).1) rfl
  | enable v ha e => subst e; exact .quiet id id rfl
  | accepted a v r ha hr hl he e => exact .accepted a v r ha hr hl he e
  | illegal w x ha hd e => subst e; exact .quiet id id rfl
  | failed w i ha hd hc e => subst e; exact .quiet id id rfl
  | performed w i ha hd hc e =>
    by_cases hi : i = .softReset
    · subst hi
      exact .reset .ok (.inl (takesCommand_of_decode ha hd (by simp))) e
    · exact .performed w i ha hd hi hc e
  | byte b ha e => subst e; exact .quiet id id rfl
  | level l ha e => subst e; exact .quiet id id rfl
  | flush ha e => subst e; exact .quiet id id rfl
  | reset ha e => exact .reset .none (.inr ha) e

end Sys2Proof.Machine
end

section
/-! SUPPORT. Every step keeps the invariant (10_state.md R22 to R37; 41_acquisition.md R164 to R166). -/

namespace Sys2Proof.Machine

/-! ### The invariant and the single updates -/

/-- The invariant says nothing of these fields. -/
theorem inv_of_free_fields {s : State} (h : s.Inv) {irqEn warn drop cmdErr accErr cmdResult calcCrc readCrc ks ivr
    framesRx crcErrs preByte0 ctr rearmEvents syncN rxq busReads draws agenda} :
    State.Inv { s with
      events := { s.events with warn := warn, drop := drop, cmdErr := cmdErr, accErr := accErr }
      irqEn := irqEn, cmdResult := cmdResult, calcCrc := calcCrc, readCrc := readCrc, ks := ks, ivr := ivr
      framesRx := framesRx, crcErrs := crcErrs, preByte0 := preByte0, ctr := ctr, rearmEvents := rearmEvents
      syncN := syncN, rxq := rxq, busReads := busReads, draws := draws, agenda := agenda } :=
  { h with memory := h.memory }

/-- Events the host clears: EV_READING and EV_OVR may fall, not rise. -/
theorem inv_of_fewer_events {s : State} {e : EventBits} (h : s.Inv)
    (hreading : e.reading = true → s.events.reading = true) (hovr : e.ovr = true → s.events.ovr = true) :
    State.Inv { s with events := e } where
  __ := h
  noReading hv := by
    obtain ⟨ht, hm, hf, ha, hc, hr, ho⟩ := h.noReading hv
    exact ⟨ht, hm, hf, ha, hc, by simpa [hr] using hreading, by simpa [ho] using hovr⟩


theorem inv_setPhase {s : State} {p : Phase} (h : s.Inv) (hoff : p = .off ↔ s.phase = .off)
    (hbody : p = .body → lenOk s.frameLen.toNat = true ∧ s.bodyCnt.toNat < s.frameLen.toNat)
    (hproc : p = .proc → lenOk s.frameLen.toNat = true) : (setPhase p s).Inv where
  __ := h
  phaseOff := hoff.trans h.phaseOff
  bodyCount := hbody
  passLength := hproc

/-- A phase that reads no body and runs no pass makes no claim of the length. -/
theorem inv_setPhase_plain {s : State} {p : Phase} (h : s.Inv) (hoff : s.phase ≠ .off)
    (hp : p ∈ [Phase.waitSync, .pre0, .pre1, .len]) : (setPhase p s).Inv := by
  refine inv_setPhase h ?_ ?_ ?_
  · exact iff_of_false (by rintro rfl; simp at hp) hoff
  all_goals
    rintro rfl
    simp at hp

theorem inv_setFrameLen {s : State} (l : Byte) (h : s.Inv) (hbody : s.phase ≠ .body) (hproc : s.phase ≠ .proc) :
    (setFrameLen l s).Inv where
  __ := h
  bodyCount hp := absurd hp hbody
  passLength hp := absurd hp hproc

theorem inv_setBodyCnt {s : State} (c : BitVec 6) (h : s.Inv) (hbody : s.phase ≠ .body) : (setBodyCnt c s).Inv where
  __ := h
  bodyCount hp := absurd hp hbody

theorem inv_writeFrame {s : State} {i : Nat} {bs : List Byte} (h : s.Inv) (hi : i + bs.length ≤ 64) :
    (writeFrame i bs s).Inv where
  __ := h
  memory := wf_writeFrame i bs s h.memory hi

theorem inv_writePlain {s : State} {i : Nat} {bs : List Byte} (h : s.Inv) (hi : i + bs.length ≤ 48) :
    (writePlain i bs s).Inv where
  __ := h
  memory := wf_writePlain i bs s h.memory hi

/-- A frame result other than READING_OK touches EV_WARN and EV_DROP only (60_exceptions.md R283). -/
theorem inv_raiseFrame {s : State} {r : FrameResult} (h : s.Inv) (hr : r ≠ .readingOk) : (raiseFrame r s).Inv where
  __ := h
  noReading := by
    have e : (frameEvents r s.events).reading = s.events.reading ∧ (frameEvents r s.events).ovr = s.events.ovr := by
      cases r with
      | readingOk => exact absurd rfl hr
      | _ => exact ⟨rfl, rfl⟩
    simpa [e] using h.noReading
  readingOk hk := absurd hk hr

theorem inv_commitReading {s : State} {lay : Layout} (h : s.Inv) (hi : layoutOfCi (ciByte s) = some lay) :
    (commitReading (layoutOffsets lay) s).Inv where
  __ := h
  noReading hv := by cases hv
  readingCi _ := layoutOfCi_some hi
  readingOk _ := rfl

theorem inv_resetBlock (s : State) : (resetBlock s).Inv where
  memory := wf_drawn _
  phaseOff := by simp
  ready := by simp
  expanded := by simp
  unkeyed _ := rfl
  unidentified _ := rfl
  bodyCount := by simp
  passLength := by simp
  noReading _ := ⟨rfl, rfl, rfl, rfl, rfl, rfl, rfl⟩
  readingCi := by simp
  readingOk := by simp

/-! ### The invariant and the CORE -/

/-- The CTR stage writes at most the 48 bytes of `PLAIN_BUF`. -/
theorem inv_decrypted {s : State} {l : Nat} (h : s.Inv) (hc : cipherLengthBad (cipherLength l) = false) :
    (decrypted (cipherLength l) s).Inv := by
  have hl := (cipherLengthBad_eq_false_iff _).1 hc
  have hw : (stageIv s).Inv := inv_of_free_fields h
  exact inv_of_free_fields (inv_writePlain hw (by simp [frameSlice]; omega))

theorem inv_framePass {s : State} (l : Nat) (h : s.Inv) : (framePass l s).Inv := by
  have hchecked (hc : cipherLengthBad (cipherLength l) = false) : (checked (cipherLength l) s).Inv :=
    inv_of_free_fields (inv_decrypted h hc)
  cases framePass_cases l s with
  | addressMiss _ e => rw [e]; exact inv_raiseFrame h (by simp)
  | cipherLength _ _ e => rw [e]; exact inv_raiseFrame h (by simp)
  | noCrc _ hc _ e => rw [e]; exact inv_raiseFrame (inv_decrypted h hc) (by simp)
  | crcMismatch _ hc _ _ e =>
    rw [e]
    exact inv_raiseFrame (s := countCrcError _) (inv_of_free_fields (hchecked hc)) (by simp)
  | noCi _ hc _ _ _ e => rw [e]; exact inv_raiseFrame (hchecked hc) (by simp)
  | unknownCi _ hc _ _ _ _ e => rw [e]; exact inv_raiseFrame (hchecked hc) (by simp)
  | tooShort _ _ hc _ _ _ _ _ e => rw [e]; exact inv_raiseFrame (hchecked hc) (by simp)
  | commit _ _ hc _ _ _ hi _ e => rw [e]; exact inv_commitReading (hchecked hc) hi

/-- In BODY the counter does not wrap: `BODY_CNT < LEN ≤ 63` (R164, R165). -/
theorem bodyCnt_succ {s : State} (h : s.Inv) (hp : s.phase = .body) :
    (s.bodyCnt + 1#6).toNat = s.bodyCnt.toNat + 1 := by
  obtain ⟨hl, hlt⟩ := h.bodyCount hp
  have := (lenOk_iff _).1 hl
  rw [BitVec.toNat_add_of_lt (by simp; omega)]
  rfl

/-- A stored body byte keeps the invariant but for the counter, which may have reached the length. -/
theorem inv_storeBodyByte {s : State} (b : Byte) (h : s.Inv)
    (hn : s.phase = .body → (s.bodyCnt + 1#6).toNat ≠ s.frameLen.toNat) : (storeBodyByte b s).Inv where
  __ := h
  memory := storeBodyByte_mem_wf b s h.memory
  bodyCount hp := by
    obtain ⟨hl, hlt⟩ := h.bodyCount hp
    have := bodyCnt_succ h hp
    have := hn hp
    exact ⟨hl, by simp; omega⟩

/-- With the last byte the phase leaves BODY, so the counter no longer matters (R166). -/
theorem inv_endOfBody_storeBodyByte {s : State} (b : Byte) (h : s.Inv) (hp : s.phase = .body) :
    (endOfBody (storeBodyByte b s)).Inv := by
  have hstored : (writeFrame s.bodyCnt.toNat [b] s).Inv :=
    inv_writeFrame h (by have := s.bodyCnt.isLt; simp; omega)
  have hproc : (setPhase .proc (writeFrame s.bodyCnt.toNat [b] s)).Inv :=
    inv_setPhase hstored (by simp [hp]) (by simp) fun _ => (h.bodyCount hp).1
  have hcounted : (countFrame (emitRearm (setPhase .proc (writeFrame s.bodyCnt.toNat [b] s)))).Inv :=
    inv_of_free_fields hproc
  exact inv_setBodyCnt (s.bodyCnt + 1#6) hcounted (by simp)

theorem inv_coreStep {s : State} (h : s.Inv) : (coreStep s).Inv := by
  have hdrop : (dropRx s).Inv := inv_of_free_fields h
  cases coreStep_cases s with
  | hold _ e => rwa [e]
  | sync hp _ e => rw [e]; exact inv_setPhase_plain h (by simp [hp]) (by simp)
  | preamble0 b _ hp _ e =>
    rw [e]
    exact inv_setPhase_plain (s := { dropRx s with preByte0 := b }) (inv_of_free_fields h) (by simp [hp]) (by simp)
  | preambleMatch _ _ hp _ _ e => rw [e]; exact inv_setPhase_plain hdrop (by simp [hp]) (by simp)
  | preambleMiss _ _ hp _ _ e =>
    rw [e]
    exact inv_setPhase_plain (inv_raiseFrame (s := emitRearm (dropRx s)) (inv_of_free_fields h) (by simp))
      (by simp [hp]) (by simp)
  | lengthOk l _ hp _ hl e =>
    rw [e]
    have hpos := (lenOk_iff _).1 hl
    exact inv_setPhase
      (inv_setBodyCnt 0#6 (inv_setFrameLen l hdrop (by simp [hp]) (by simp [hp])) (by simp [hp]))
      (by simp [hp]) (fun _ => ⟨by simpa using hl, by simp; omega⟩) (by simp)
  | lengthInvalid l _ hp _ _ e =>
    rw [e]
    have hlen : (setFrameLen l (dropRx s)).Inv := inv_setFrameLen l hdrop (by simp [hp]) (by simp [hp])
    exact inv_setPhase_plain (inv_raiseFrame (s := emitRearm _) (inv_of_free_fields hlen) (by simp))
      (by simp [hp]) (by simp)
  | bodyMore b _ _ _ hn e => rw [e]; exact inv_storeBodyByte b hdrop fun _ => hn
  | bodyLast b _ hp _ _ e => rw [e]; exact inv_endOfBody_storeBodyByte b hdrop hp
  | pass hp e => rw [e]; exact inv_setPhase_plain (inv_framePass _ h) (by simp [hp]) (by simp)

/-! ### The invariant, the commands and the host's writes -/

theorem inv_loadKey {s : State} (h : s.Inv) : (loadKey s).Inv where
  __ := h
  ready he := ⟨rfl, (h.ready he).2⟩
  expanded _ := rfl
  unkeyed hv := by cases hv

/-- START needs the key and the identity (R121). -/
theorem inv_startCore {s : State} (h : s.Inv) (hk : s.keyValid = true) (hid : s.idValid = true) :
    (startCore s).Inv where
  __ := h
  phaseOff := by simp
  ready _ := ⟨hk, hid⟩
  bodyCount hp := by simp at hp
  passLength hp := by simp at hp

/-- EN and PHASE go to 0 together (R125). -/
theorem inv_disable {s : State} (h : s.Inv) : (setBodyCnt 0#6 (setPhase .off { s with en := false })).Inv where
  __ := h
  phaseOff := by simp
  ready he := by cases he
  bodyCount hp := by cases hp
  passLength hp := by cases hp

theorem inv_stopCore {s : State} (h : s.Inv) : (stopCore s).Inv := by
  rcases stopCore_cases s with ⟨_, e⟩ | ⟨_, _, e⟩ | ⟨_, _, e⟩ <;> rw [e]
  · exact h
  · exact inv_disable (inv_raiseFrame h (by simp))
  · exact inv_disable h

theorem inv_processFrame {s : State} (h : s.Inv) : (processFrame s).Inv := by
  rcases processFrame_cases s with ⟨_, e⟩ | ⟨_, e⟩ <;> rw [e]
  · exact inv_framePass _ h
  · exact inv_raiseFrame h (by simp)

/-- A command that passes its check keeps the invariant. -/
theorem inv_commandEffect {i : Instr} {s : State} (h : s.Inv) (hc : checkCommand i s = .ok) :
    (commandEffect i s).Inv := by
  obtain ⟨-, hkey, hidentity, hrange⟩ := (checkCommand_ok_iff i s).1 hc
  cases i with
  | nop => exact h
  | keyLoad => exact inv_loadKey h
  | start => exact inv_startCore h (hkey rfl) (hidentity rfl)
  | stop => exact inv_stopCore h
  | process => exact inv_processFrame h
  | deriveIv => exact inv_of_free_fields h
  | ctr a n =>
    have := (operandsInRange_ctr a n).1 hrange
    exact inv_of_free_fields (inv_writePlain h (by simp [plainSlice]; omega))
  | crc a n => exact inv_of_free_fields h
  | aesBlock a =>
    have := (operandsInRange_aesBlock a).1 hrange
    exact inv_writePlain h (by simp; omega)
  | softReset => exact inv_resetBlock s

/-- While `EN = 0` PHASE is OFF, so a new length or a new identity meets the invariant. -/
theorem inv_writeLocked {s : State} (r : Reg) (v : Word) (h : s.Inv) (he : s.en = false) :
    (writeLocked r v s).Inv := by
  have hoff := h.phaseOff.2 he
  cases r with
  | meterId =>
    exact { h with
      ready := fun hen => absurd (he.symm.trans hen) Bool.false_ne_true
      unidentified := fun hv => by cases hv }
  | frameLen => exact inv_setFrameLen (v.setWidth 8) h (by simp [hoff]) (by simp [hoff])
  | key j => exact inv_of_free_fields h
  | iv j => exact inv_of_free_fields h
  | frameWord j => exact inv_writeFrame h (by simp; omega)
  | plainWord j => exact inv_writePlain h (by simp; omega)
  | status | irqEn | cmd | result | crcVal | totalRaw | monthRaw | temps | framesRx | crcErrs => exact h

/-- Settles O10: by the kinds of steps; the free fields and the agenda do not matter to the invariant. -/
theorem everyStepKeepsTheInvariant : Obligations.EveryStepKeepsTheInvariant := by
  intro s t h hst
  have hd : (dropAction s).Inv := inv_of_free_fields h
  cases step_kinds hst with
  | quiet hreading hovr e =>
    rw [e]
    exact inv_of_free_fields (inv_of_fewer_events h hreading hovr)
  | core b _ hb e =>
    have hbinv : b.Inv := by
      rw [hb]
      exact inv_of_free_fields h
    rw [e]
    exact inv_coreStep hbinv
  | accepted _ v r _ _ _ he e => rw [e]; exact inv_writeLocked r v hd he
  | performed _ i _ _ _ hc e =>
    rw [e]
    exact inv_of_free_fields (inv_commandEffect hd ((checkCommand_dropAction i s).trans hc))
  | reset _ _ e => rw [e]; exact inv_of_free_fields (inv_resetBlock (dropAction s))

end Sys2Proof.Machine
end

section
/-! SUPPORT. What the parts of a step leave unchanged, and the statements that a field changes only in certain steps
(10_state.md R24 to R26, R30, R33, R34, R36, R37). -/

namespace Sys2Proof.Machine

open Sys2Proof.Claims

/-! ### What commands and accepted writes leave unchanged -/

theorem processFrame_frame (s : State) :
    (processFrame s).en = s.en ∧ (processFrame s).keyValid = s.keyValid ∧ (processFrame s).idValid = s.idValid ∧
      (processFrame s).meterId = s.meterId ∧ (processFrame s).ks = s.ks ∧ (processFrame s).k = s.k ∧
      (processFrame s).rk = s.rk := by
  rcases processFrame_cases s with ⟨_, e⟩ | ⟨_, e⟩ <;> rw [e] <;> simp

theorem stopCore_frame (s : State) :
    (stopCore s).keyValid = s.keyValid ∧ (stopCore s).idValid = s.idValid ∧ (stopCore s).meterId = s.meterId ∧
      (stopCore s).ks = s.ks ∧ (stopCore s).k = s.k ∧ (stopCore s).rk = s.rk ∧
      readingOf (stopCore s) = readingOf s := by
  rcases stopCore_cases s with ⟨_, e⟩ | ⟨_, _, e⟩ | ⟨_, _, e⟩ <;> rw [e] <;> simp [readingOf]

/-- After STOP acquisition is off (R125). -/
theorem stopCore_en (s : State) : (stopCore s).en = false := by
  rcases stopCore_cases s with ⟨he, e⟩ | ⟨_, _, e⟩ | ⟨_, _, e⟩ <;> rw [e]
  · exact he
  · rfl
  · rfl

/-- Only START, STOP and SOFT_RESET write EN. -/
theorem commandEffect_en {i : Instr} (s : State) (hstart : i ≠ .start) (hstop : i ≠ .stop) (hreset : i ≠ .softReset) :
    (commandEffect i s).en = s.en := by
  cases i with
  | start => exact absurd rfl hstart
  | stop => exact absurd rfl hstop
  | softReset => exact absurd rfl hreset
  | process => exact (processFrame_frame s).1
  | nop | keyLoad | deriveIv | ctr | crc | aesBlock =>
    simp [commandEffect, stageIv, ctrInPlace, crcOfPlain, aesInPlace]

/-- Only KEY_LOAD and SOFT_RESET write the key, the round keys and KEY_VALID. -/
theorem commandEffect_key {i : Instr} (s : State) (hload : i ≠ .keyLoad) (hreset : i ≠ .softReset) :
    (commandEffect i s).k = s.k ∧ (commandEffect i s).rk = s.rk ∧ (commandEffect i s).keyValid = s.keyValid := by
  cases i with
  | keyLoad => exact absurd rfl hload
  | softReset => exact absurd rfl hreset
  | process =>
    obtain ⟨-, hv, -, -, -, hk, hrk⟩ := processFrame_frame s
    exact ⟨hk, hrk, hv⟩
  | stop =>
    obtain ⟨hv, -, -, -, hk, hrk, -⟩ := stopCore_frame s
    exact ⟨hk, hrk, hv⟩
  | nop | start | deriveIv | ctr | crc | aesBlock =>
    simp [commandEffect, stageIv, ctrInPlace, crcOfPlain, aesInPlace]

/-- Only SOFT_RESET writes the staging, METER_ID and ID_VALID. -/
theorem commandEffect_staging_identity {i : Instr} (s : State) (hreset : i ≠ .softReset) :
    (commandEffect i s).ks = s.ks ∧ (commandEffect i s).meterId = s.meterId ∧
      (commandEffect i s).idValid = s.idValid := by
  cases i with
  | softReset => exact absurd rfl hreset
  | process =>
    obtain ⟨-, -, hid, hm, hks, -, -⟩ := processFrame_frame s
    exact ⟨hks, hm, hid⟩
  | stop =>
    obtain ⟨-, hid, hm, hks, -, -, -⟩ := stopCore_frame s
    exact ⟨hks, hm, hid⟩
  | nop | keyLoad | start | deriveIv | ctr | crc | aesBlock =>
    simp [commandEffect, stageIv, ctrInPlace, crcOfPlain, aesInPlace]

/-- Only PROCESS and SOFT_RESET write the reading. -/
theorem commandEffect_readingOf {i : Instr} (s : State) (hprocess : i ≠ .process) (hreset : i ≠ .softReset) :
    readingOf (commandEffect i s) = readingOf s := by
  cases i with
  | process => exact absurd rfl hprocess
  | softReset => exact absurd rfl hreset
  | stop =>
    obtain ⟨-, -, -, -, -, -, hr⟩ := stopCore_frame s
    exact hr
  | nop | keyLoad | start | deriveIv | ctr | crc | aesBlock =>
    simp [readingOf, commandEffect, stageIv, ctrInPlace, crcOfPlain, aesInPlace]

/-- An accepted write touches METER_ID with ID_VALID, FRAME_LEN, the staging, the IV and the buffers only (R63). -/
theorem writeLocked_frame (r : Reg) (v : Word) (s : State) :
    writeLocked r v s = { s with
      meterId := (writeLocked r v s).meterId, idValid := (writeLocked r v s).idValid
      frameLen := (writeLocked r v s).frameLen, ks := (writeLocked r v s).ks, ivr := (writeLocked r v s).ivr
      mem := (writeLocked r v s).mem } := by
  cases r <;> rfl

/-- The staging is written through KEY0 to KEY3 only (R33). -/
theorem writeLocked_ks {r : Reg} (v : Word) (s : State) (hr : ∀ j, r ≠ .key j) : (writeLocked r v s).ks = s.ks := by
  cases r with
  | key j => exact absurd rfl (hr j)
  | _ => rfl

/-- The identity is written through METER_ID only (R30). -/
theorem writeLocked_identity {r : Reg} (v : Word) (s : State) (hr : r ≠ .meterId) :
    (writeLocked r v s).meterId = s.meterId ∧ (writeLocked r v s).idValid = s.idValid := by
  cases r with
  | meterId => exact absurd rfl hr
  | _ => exact ⟨rfl, rfl⟩

/-! ### EN -/

/-- What a step can do to EN (R24). -/
theorem step_en {s t : State} (h : step s = .next t) :
    t.en = s.en ∨ (t.en = true ∧ takesCommand s 0x00000002#32) ∨
      (t.en = false ∧ (takesCommand s 0x00000003#32 ∨ takesReset s)) := by
  cases step_kinds h with
  | quiet _ _ e => exact .inl (by rw [e])
  | core b _ hb e =>
    obtain ⟨hen, -⟩ := coreStep_frame b
    exact .inl (by rw [e, hen, hb])
  | accepted _ v r _ _ _ _ e => exact .inl (by rw [e, writeLocked_frame]; rfl)
  | performed w i ha hd hi _ e =>
    subst e
    by_cases hstart : i = .start
    · subst hstart
      exact .inr (.inl ⟨rfl, takesCommand_of_decode ha hd (by simp)⟩)
    · by_cases hstop : i = .stop
      · subst hstop
        exact .inr (.inr ⟨stopCore_en _, .inl (takesCommand_of_decode ha hd (by simp))⟩)
      · exact .inl (commandEffect_en (dropAction s) hstart hstop hi)
  | reset r hr e => exact .inr (.inr ⟨by rw [e]; rfl, .inr hr⟩)

/-- Settles O11, by what a step can do to EN. -/
theorem acquisitionIsSwitchedOnlyByCommands : Obligations.AcquisitionIsSwitchedOnlyByCommands := by
  intro s t h
  rcases step_en h with e | ⟨e, hc⟩ | ⟨e, hc⟩
  · rw [e]
    exact ⟨fun h0 h1 => by simp [h0] at h1, fun h1 h0 => by simp [h1] at h0⟩
  · exact ⟨fun _ _ => hc, fun _ h0 => by simp [e] at h0⟩
  · exact ⟨fun _ h1 => by simp [e] at h1, fun _ _ => hc⟩

/-! ### The key and its staging -/

/-- What a step can do to the key, the round keys and KEY_VALID (R25, R34). -/
theorem step_key {s t : State} (h : step s = .next t) :
    (t.k = s.k ∧ t.rk = s.rk ∧ t.keyValid = s.keyValid) ∨ (takesCommand s 0x00000001#32 ∧ s.en = false) ∨
      takesReset s := by
  cases step_kinds h with
  | quiet _ _ e => exact .inl ⟨by rw [e], by rw [e], by rw [e]⟩
  | core b _ hb e =>
    obtain ⟨-, hv, -, -, -, -, -, hk, hrk, -⟩ := coreStep_frame b
    rw [← e] at hv hk hrk
    rw [hb] at hv hk hrk
    exact .inl ⟨hk, hrk, hv⟩
  | accepted _ v r _ _ _ _ e =>
    rw [e, writeLocked_frame]
    exact .inl ⟨rfl, rfl, rfl⟩
  | performed w i ha hd hi hc e =>
    by_cases hload : i = .keyLoad
    · subst hload
      have hen : s.en = false := by simpa [allowedWhileEnabled] using ((checkCommand_ok_iff _ s).1 hc).1
      exact .inr (.inl ⟨takesCommand_of_decode ha hd (by simp), hen⟩)
    · rw [e]
      exact .inl (commandEffect_key (dropAction s) hload hi)
  | reset _ hr _ => exact .inr (.inr hr)

theorem address_of_key {a : BusAddr} {j : Fin 4} (h : reached a = some (.key j)) :
    a ∈ [0x020#12, 0x024#12, 0x028#12, 0x02C#12] := by
  have ha : a = BitVec.ofNat 12 (regAddress (.key j)) := reached_injective h (reached_regAddress _)
  subst ha
  revert j
  decide

/-- What a step can do to the staging (R33). -/
theorem step_staging {s t : State} (h : step s = .next t) :
    t.ks = s.ks ∨ (s.en = false ∧ ∃ a v, takenAction s = some (.hostWrite a v) ∧
      a ∈ [0x020#12, 0x024#12, 0x028#12, 0x02C#12]) ∨ takesReset s := by
  cases step_kinds h with
  | quiet _ _ e => exact .inl (by rw [e])
  | core b _ hb e =>
    obtain ⟨-, -, -, -, -, -, hks, -⟩ := coreStep_frame b
    exact .inl (by rw [e, hks, hb])
  | accepted a v r ha hr _ he e =>
    by_cases hkey : ∃ j, r = .key j
    · obtain ⟨j, rfl⟩ := hkey
      exact .inr (.inl ⟨he, a, v, ha, address_of_key hr⟩)
    · exact .inl (by rw [e, writeLocked_ks v _ fun j hj => hkey ⟨j, hj⟩]; rfl)
  | performed w i _ _ hi _ e =>
    rw [e]
    exact .inl (commandEffect_staging_identity (dropAction s) hi).1
  | reset _ hr _ => exact .inr (.inr hr)

/-- Settles O12, by what a step can do to the key and to the staging. -/
theorem keyChangesOnlyByLoadOrReset : Obligations.KeyChangesOnlyByLoadOrReset := by
  intro s t h
  constructor
  · intro hne
    refine (step_key h).resolve_left fun ⟨hk, hrk, hv⟩ => ?_
    simp [hk, hrk, hv] at hne
  · exact fun hne => (step_staging h).resolve_left hne

/-! ### The identity -/

/-- What a step can do to METER_ID and ID_VALID (R26, R30). -/
theorem step_identity {s t : State} (h : step s = .next t) :
    (t.meterId = s.meterId ∧ t.idValid = s.idValid) ∨
      (s.en = false ∧ ∃ v, takenAction s = some (.hostWrite 0x010#12 v) ∧ t.meterId = v ∧ t.idValid = true) ∨
      takesReset s := by
  cases step_kinds h with
  | quiet _ _ e => exact .inl ⟨by rw [e], by rw [e]⟩
  | core b _ hb e =>
    obtain ⟨-, -, hv, -, -, hm, -⟩ := coreStep_frame b
    exact .inl ⟨by rw [e, hm, hb], by rw [e, hv, hb]⟩
  | accepted a v r ha hr _ he e =>
    by_cases hid : r = .meterId
    · subst hid
      have haddr : a = 0x010#12 := reached_injective hr (reached_regAddress .meterId)
      exact .inr (.inl ⟨he, v, haddr ▸ ha, by rw [e]; rfl, by rw [e]; rfl⟩)
    · rw [e]
      exact .inl (writeLocked_identity v (dropAction s) hid)
  | performed w i _ _ hi _ e =>
    rw [e]
    exact .inl (commandEffect_staging_identity (dropAction s) hi).2
  | reset _ hr _ => exact .inr (.inr hr)

/-- Settles O13, by what a step can do to the identity. -/
theorem identityChangesOnlyByWriteOrReset : Obligations.IdentityChangesOnlyByWriteOrReset := by
  intro s t h hne
  refine (step_identity h).resolve_left fun ⟨hm, hv⟩ => ?_
  simp [hm, hv] at hne

/-! ### The reading -/

/-- The state holds a reading that a pass has just committed (45_parser.md R266). -/
def JustCommitted (t : State) : Prop := t.frameResult = .readingOk ∧ t.events.reading = true ∧ t.resValid = true

/-- A pass commits a reading or leaves the reading as it was (R271). -/
theorem framePass_readingOf (l : Nat) (s : State) :
    readingOf (framePass l s) = readingOf s ∨ JustCommitted (framePass l s) := by
  by_cases hr : (framePass l s).frameResult = .readingOk
  · obtain ⟨hv, he, -⟩ := framePass_reading l s hr
    exact .inr ⟨hr, he, hv⟩
  · obtain ⟨ht, hm, hf, ha, hc, -⟩ := framePass_no_reading l s hr
    exact .inl (by simp only [readingOf, ht, hm, hf, ha, hc])

theorem processFrame_readingOf (s : State) :
    readingOf (processFrame s) = readingOf s ∨ JustCommitted (processFrame s) := by
  rcases processFrame_cases s with ⟨_, e⟩ | ⟨_, e⟩ <;> rw [e]
  · exact framePass_readingOf _ s
  · exact .inl rfl

/-- Of the CORE's moves only the pass touches the reading. -/
theorem coreStep_readingOf (s : State) :
    readingOf (coreStep s) = readingOf s ∨ (s.phase = .proc ∧ JustCommitted (coreStep s)) := by
  cases coreStep_cases s with
  | pass hp e =>
    rw [e]
    exact (framePass_readingOf s.frameLen.toNat s).imp id fun hc => ⟨hp, hc⟩
  | hold _ e | sync _ _ e | preamble0 _ _ _ _ e | preambleMatch _ _ _ _ _ e | preambleMiss _ _ _ _ _ e
  | lengthOk _ _ _ _ _ e | lengthInvalid _ _ _ _ _ e | bodyMore _ _ _ _ _ e | bodyLast _ _ _ _ _ e =>
    rw [e]
    exact .inl (by simp [readingOf])

/-- Settles O15, by the kinds of steps: only a pass, in PROC or by PROCESS, and a reset touch the reading. -/
theorem readingChangesOnlyByCommit : Obligations.ReadingChangesOnlyByCommit := by
  intro s t h
  cases step_kinds h with
  | quiet _ _ e => exact .inl (by rw [e]; rfl)
  | core b ht hb e =>
    subst e
    rcases coreStep_readingOf b with hr | ⟨hp, hok, hev, hres⟩
    · exact .inl (by rw [hr, hb]; rfl)
    · have hps : s.phase = .proc := (congrArg State.phase hb).symm.trans hp
      exact .inr (.inr ⟨hok, hev, hres, .inl ⟨hps, ht⟩⟩)
  | accepted _ v r _ _ _ _ e => exact .inl (by rw [e, writeLocked_frame]; rfl)
  | performed w i ha hd hi _ e =>
    subst e
    by_cases hprocess : i = .process
    · subst hprocess
      rcases processFrame_readingOf (dropAction s) with hr | ⟨hok, hev, hres⟩
      · exact .inl hr
      · exact .inr (.inr ⟨hok, hev, hres, .inr (takesCommand_of_decode ha hd (by simp))⟩)
    · exact .inl (commandEffect_readingOf (dropAction s) hprocess hi)
  | reset _ hr _ => exact .inr (.inl hr)

end Sys2Proof.Machine
end

section
/-! SUPPORT. When a turn of the CORE changes the state (10_state.md R22; 00_scope.md R12). -/

namespace Sys2Proof.Machine

theorem coreEnabled_iff (s : State) :
    coreEnabled s = true ↔ ((s.phase = .waitSync ∧ s.syncN = false) ∨
      (s.phase ∈ [Phase.pre0, .pre1, .len, .body] ∧ s.rxq ≠ []) ∨ s.phase = .proc) := by
  unfold coreEnabled
  cases s.phase <;> simp

/-- A taken byte shortens the queue. -/
theorem ne_of_rxq_tail {s t : State} {b : Byte} {bs : List Byte} (hq : s.rxq = b :: bs) (ht : t.rxq = s.rxq.tail) :
    t ≠ s := by
  rintro rfl
  simp [hq] at ht

/-- A turn leaves the state as it is exactly when the CORE has no enabled step: every move changes PHASE or takes a
byte. -/
theorem coreStep_eq_self_iff (s : State) : coreStep s = s ↔ coreEnabled s = false := by
  cases coreStep_cases s with
  | hold h e => simp [h, e]
  | sync hp hn e =>
    have hne : setPhase .pre0 s ≠ s := fun h => by simpa [hp] using congrArg State.phase h
    simp [e, hne, coreEnabled, hp, hn]
  | pass hp e =>
    have hne : passStep s ≠ s := fun h => by simpa [passStep, hp] using congrArg State.phase h
    simp [e, hne, coreEnabled, hp]
  | preamble0 _ _ hp hq e | preambleMatch _ _ hp hq _ e | preambleMiss _ _ hp hq _ e | lengthOk _ _ hp hq _ e
  | lengthInvalid _ _ hp hq _ e | bodyMore _ _ hp hq _ e | bodyLast _ _ hp hq _ e =>
    have hne : coreStep s ≠ s := ne_of_rxq_tail hq (by rw [e]; simp)
    simp [hne, coreEnabled, hp, hq]

/-- Settles O19, by `coreStep_eq_self_iff` and the enabling table. -/
theorem coreMovesExactlyWhenEnabled : Obligations.CoreMovesExactlyWhenEnabled := by
  intro s
  rw [← coreEnabled_iff, Ne, coreStep_eq_self_iff, Bool.not_eq_false]

end Sys2Proof.Machine
end

section
/-! SUPPORT. What the host reads and writes through the register map (10_state.md R22 to R40; 20_memory.md R61 to R67,
R70). -/

namespace Sys2Proof.Machine

open Sys2Proof.Claims

/-! ### The addresses of the map -/

theorem regAddress_of_window {n : Nat} (h4 : n % 4 = 0) (hlo : 0x100 ≤ n) (hhi : n < 0x170) :
    ∃ r : Reg, r.access = .locked ∧ n = regAddress r := by
  by_cases hf : n < 0x140
  · exact ⟨.frameWord ⟨(n - 0x100) / 4, by omega⟩, rfl, by simp only [regAddress]; omega⟩
  · exact ⟨.plainWord ⟨(n - 0x140) / 4, by omega⟩, rfl, by simp only [regAddress]; omega⟩

theorem regAddress_of_lockable {n : Nat} (h : lockable n) : ∃ r : Reg, r.access = .locked ∧ n = regAddress r := by
  rcases h with h | ⟨h4, hlo, hhi⟩
  · simp only [List.mem_cons, List.not_mem_nil, or_false] at h
    rcases h with rfl | rfl | rfl | rfl | rfl | rfl | rfl | rfl | rfl | rfl
    exacts [⟨.meterId, rfl, rfl⟩, ⟨.frameLen, rfl, rfl⟩, ⟨.key 0, rfl, rfl⟩, ⟨.key 1, rfl, rfl⟩, ⟨.key 2, rfl, rfl⟩,
      ⟨.key 3, rfl, rfl⟩, ⟨.iv 0, rfl, rfl⟩, ⟨.iv 1, rfl, rfl⟩, ⟨.iv 2, rfl, rfl⟩, ⟨.iv 3, rfl, rfl⟩]
  · exact regAddress_of_window h4 hlo hhi

theorem regAddress_of_mapped {n : Nat} (h : mapped n) : ∃ r : Reg, n = regAddress r := by
  rcases h with h | ⟨h4, hlo, hhi⟩
  · simp only [List.mem_cons, List.not_mem_nil, or_false] at h
    rcases h with rfl | rfl | rfl | rfl | rfl | rfl | rfl | rfl | rfl | rfl | rfl | rfl | rfl | rfl | rfl | rfl |
      rfl | rfl | rfl | rfl
    exacts [⟨.status, rfl⟩, ⟨.irqEn, rfl⟩, ⟨.cmd, rfl⟩, ⟨.result, rfl⟩, ⟨.meterId, rfl⟩, ⟨.frameLen, rfl⟩,
      ⟨.crcVal, rfl⟩, ⟨.key 0, rfl⟩, ⟨.key 1, rfl⟩, ⟨.key 2, rfl⟩, ⟨.key 3, rfl⟩, ⟨.iv 0, rfl⟩, ⟨.iv 1, rfl⟩,
      ⟨.iv 2, rfl⟩, ⟨.iv 3, rfl⟩, ⟨.totalRaw, rfl⟩, ⟨.monthRaw, rfl⟩, ⟨.temps, rfl⟩, ⟨.framesRx, rfl⟩,
      ⟨.crcErrs, rfl⟩]
  · obtain ⟨r, -, hr⟩ := regAddress_of_window h4 hlo hhi
    exact ⟨r, hr⟩

theorem reached_of_toNat {a : BusAddr} {r : Reg} (h : a.toNat = regAddress r) : reached a = some r := by
  rw [← reached_regAddress r, ← h, BitVec.ofNat_toNat, BitVec.setWidth_eq]

/-- A mapped read returns the register and leaves the state as it is (R62). -/
theorem memRead_of_reached {a : BusAddr} {r : Reg} (h : reached a = some r) (s : State) :
    memRead a s = (readReg r s, s) := by
  simp [memRead, h]

theorem memRead_regAddress (r : Reg) (s : State) :
    memRead (BitVec.ofNat 12 (regAddress r)) s = (readReg r s, s) :=
  memRead_of_reached (reached_regAddress r) s

/-- No register word shows the staging, the key or the round keys. -/
theorem readReg_of_other_key (r : Reg) (s : State) (ks k : Block) (rk : Vector Block 11) :
    readReg r { s with ks := ks, k := k, rk := rk } = readReg r s := by
  cases r <;> rfl

/-- Settles O48: a mapped read is `readReg`, which does not see the key; any other read is 0. -/
theorem noReadRevealsTheKey : Obligations.NoReadRevealsTheKey := by
  intro a s ks k rk
  constructor
  · intro hm
    obtain ⟨r, hr⟩ := regAddress_of_mapped hm
    rw [memRead_of_reached (reached_of_toNat hr)]
  · rcases memRead_cases a s with ⟨hn, e⟩ | ⟨r, hr, e⟩
    · simp [memRead, hn]
    · rw [e, memRead_of_reached hr]
      exact readReg_of_other_key r s ks k rk

/-! ### What an accepted write changes -/

/-- The word a locked register reads after it was written (R31, R33, R67). -/
def readBack (r : Reg) (v : Word) : Word :=
  match r with
  | .frameLen => 0#24 ++ v.setWidth 8
  | .key _ => 0#32
  | _ => v

theorem readReg_writeLocked_same {r : Reg} (v : Word) (s : State) (hl : r.access = .locked) :
    readReg r (writeLocked r v s) = readBack r v := by
  cases r with
  | meterId | frameLen | key => rfl
  | iv j => simp [readReg, writeLocked, readBack, blockWord_setBlockWord]
  | frameWord j => simpa [readReg, writeLocked, readBack] using windowWord_writeFrame s j.val j.val v
  | plainWord j => simpa [readReg, writeLocked, readBack] using windowWord_writePlain s j.val j.val v
  | _ => cases hl

theorem writeLocked_frameLen {r : Reg} (v : Word) (s : State) (hr : r ≠ .frameLen) :
    (writeLocked r v s).frameLen = s.frameLen := by
  cases r with
  | frameLen => exact absurd rfl hr
  | _ => rfl

theorem blockWord_ivr_writeLocked {r : Reg} {i : Fin 4} (v : Word) (s : State) (hr : r ≠ .iv i) :
    blockWord (writeLocked r v s).ivr i.val = blockWord s.ivr i.val := by
  cases r with
  | iv j =>
    have hij : j.val ≠ i.val := fun h => hr (congrArg Reg.iv (Fin.ext h))
    simp [writeLocked, blockWord_setBlockWord, hij]
  | _ => rfl

theorem frameWord_writeLocked {r : Reg} {i : Fin 16} (v : Word) (s : State) (hr : r ≠ .frameWord i) :
    windowWord (frameByte (writeLocked r v s)) (4 * i.val) = windowWord (frameByte s) (4 * i.val) := by
  cases r with
  | frameWord j =>
    have hij : j.val ≠ i.val := fun h => hr (congrArg Reg.frameWord (Fin.ext h))
    simp only [writeLocked, windowWord_writeFrame, if_neg hij]
  | plainWord j =>
    simp (disch := omega) only [writeLocked, windowWord, frameByte_writePlain]
  | _ => rfl

theorem plainWord_writeLocked {r : Reg} {i : Fin 12} (v : Word) (s : State) (hr : r ≠ .plainWord i) :
    windowWord (plainByte (writeLocked r v s)) (4 * i.val) = windowWord (plainByte s) (4 * i.val) := by
  cases r with
  | plainWord j =>
    have hij : j.val ≠ i.val := fun h => hr (congrArg Reg.plainWord (Fin.ext h))
    simp only [writeLocked, windowWord_writePlain, if_neg hij]
  | frameWord j =>
    have hlen : 4 * j.val + (wordBytes v).length ≤ 64 := by rw [wordBytes_length]; omega
    simp only [writeLocked, windowWord, plainByte_writeFrame _ _ _ _ hlen]
  | _ => rfl

/-- No register but the one written, and STATUS, reads differently. -/
theorem readReg_writeLocked_other {r q : Reg} (v : Word) (s : State) (hq : r ≠ q) (hs : q ≠ .status) :
    readReg q (writeLocked r v s) = readReg q s := by
  cases q with
  | status => exact absurd rfl hs
  | meterId => exact (writeLocked_identity v s hq).1
  | frameLen => exact congrArg (0#24 ++ ·) (writeLocked_frameLen v s hq)
  | iv i => exact blockWord_ivr_writeLocked v s hq
  | frameWord i => exact frameWord_writeLocked v s hq
  | plainWord i => exact plainWord_writeLocked v s hq
  | irqEn | cmd | result | crcVal | key | totalRaw | monthRaw | temps | framesRx | crcErrs =>
    rw [writeLocked_frame]
    rfl

theorem lowByte_eq_and (v : Word) : (0#24 ++ v.setWidth 8 : Word) = v &&& 0x000000FF#32 := by
  apply BitVec.eq_of_getLsbD_eq
  intro i hi
  interval_cases i <;> simp only [BitVec.getLsbD_and, BitVec.getLsbD_append, BitVec.getLsbD_setWidth] <;> simp

/-- What a locked register reads back, by its address. -/
theorem readBack_eq {r : Reg} (v : Word) (hl : r.access = .locked) :
    readBack r v = if regAddress r = 0x014 then v &&& 0x000000FF#32
      else if 0x020 ≤ regAddress r ∧ regAddress r < 0x030 then 0#32 else v := by
  cases r with
  | meterId => rfl
  | frameLen => exact lowByte_eq_and v
  | key j => rw [if_neg (by simp only [regAddress]; omega), if_pos (by simp only [regAddress]; omega)]; rfl
  | iv j | frameWord j | plainWord j =>
    rw [if_neg (by simp only [regAddress]; omega), if_neg (by simp only [regAddress]; omega)]
    rfl
  | _ => cases hl

/-- Setting ID_VALID sets bit 2 of STATUS (R23). -/
theorem statusWord_identified (s : State) (v : Word) :
    statusWord { s with meterId := v, idValid := true } = statusWord s ||| 0x00000004#32 := by
  apply BitVec.eq_of_getLsbD_eq
  intro i hi
  simp only [statusWord, BitVec.getLsbD_or, BitVec.getLsbD_append]
  interval_cases i <;> simp

theorem regAddress_eq_meterId {r : Reg} (h : regAddress r = 0x010) : r = .meterId := by
  have hr : reached (BitVec.ofNat 12 (regAddress r)) = some .meterId := by rw [h]; rfl
  exact Option.some.inj ((reached_regAddress r).symm.trans hr)

theorem statusWord_writeLocked (r : Reg) (v : Word) (s : State) :
    statusWord (writeLocked r v s) =
      if regAddress r = 0x010 then statusWord s ||| 0x00000004#32 else statusWord s := by
  by_cases hr : r = .meterId
  · subst hr
    exact statusWord_identified s v
  · obtain ⟨-, hid⟩ := writeLocked_identity v s hr
    rw [if_neg fun h => hr (regAddress_eq_meterId h), writeLocked_frame]
    simp only [statusWord, hid]

/-- A write of KEYj reaches bytes `4j` to `4j+3` of the staging, which by address are the bytes from 0x020 up. -/
theorem blockByte_ks_writeLocked (r : Reg) (v : Word) (s : State) {i : Nat} (hi : i < 16) :
    blockByte (writeLocked r v s).ks i =
      if regAddress r < 0x030 ∧ 0x020 + i < regAddress r + 4 ∧ regAddress r ≤ 0x020 + i then
        wordByte v (0x020 + i - regAddress r)
      else blockByte s.ks i := by
  cases r with
  | key j =>
    have hsub : 0x020 + i - (0x020 + 4 * j.val) = i - 4 * j.val := by omega
    simp only [writeLocked, blockByte_setBlockWord _ _ _ _ hi, regAddress, hsub]
    congr 1
    exact propext (by omega)
  | _ =>
    rw [if_neg (by simp only [regAddress]; omega)]
    rfl

theorem memWrite_locked {a : BusAddr} {r : Reg} {s : State} (v : Word) (hr : reached a = some r)
    (hl : r.access = .locked) (he : s.en = false) : memWrite a v s = .next (writeLocked r v s) := by
  simp [memWrite, hr, hl, he]

/-- Settles O47: the write is `writeLocked` of the register at the address; then clause by clause. -/
theorem acceptedWritesReadBack : Obligations.AcceptedWritesReadBack := by
  intro a v s ha he
  obtain ⟨r, hl, haddr⟩ := regAddress_of_lockable ha
  have hr := reached_of_toNat haddr
  rw [haddr]
  refine ⟨writeLocked r v s, memWrite_locked v hr hl he, ?back, ?others, statusWord_writeLocked r v s,
    fun i hi => blockByte_ks_writeLocked r v s hi, writeLocked_frame r v s⟩
  case back => rw [memRead_of_reached hr, readReg_writeLocked_same v s hl, readBack_eq v hl]
  case others =>
    intro b hb hne hstatus
    obtain ⟨q, hq⟩ := regAddress_of_mapped hb
    have hbq := reached_of_toNat hq
    rw [memRead_of_reached hbq, memRead_of_reached hbq]
    refine readReg_writeLocked_other v s ?_ ?_
    · rintro rfl
      exact hne (reached_injective hbq hr)
    · rintro rfl
      exact hstatus hq

/-! ### The register words -/

theorem statusWord_flags (s : State) :
    (statusWord s).getLsbD 0 = s.en ∧ (statusWord s).getLsbD 1 = s.keyValid ∧ (statusWord s).getLsbD 2 = s.idValid ∧
      (statusWord s).getLsbD 3 = s.resValid := by
  simp only [statusWord, BitVec.getLsbD_append]
  simp

theorem statusWord_phase (s : State) : (statusWord s).extractLsb' 4 3 = s.phase.code := by
  simp (disch := decide) only [statusWord, extract_append_low, extract_append_high, Nat.reduceSub, extract_self]

theorem statusWord_events (s : State) :
    (statusWord s).getLsbD 16 = s.events.reading ∧ (statusWord s).getLsbD 17 = s.events.warn ∧
      (statusWord s).getLsbD 18 = s.events.drop ∧ (statusWord s).getLsbD 19 = s.events.ovr ∧
      (statusWord s).getLsbD 20 = s.events.cmdErr ∧ (statusWord s).getLsbD 21 = s.events.accErr := by
  simp only [statusWord, EventBits.toBits, BitVec.getLsbD_append]
  simp

theorem statusWord_unused (s : State) {b : Nat} (hb : (7 ≤ b ∧ b ≤ 15) ∨ 22 ≤ b) :
    (statusWord s).getLsbD b = false := by
  rcases hb with ⟨hlo, hhi⟩ | hhi
  · simp (disch := omega) only [statusWord, BitVec.getLsbD_append, if_neg, if_pos, BitVec.getLsbD_zero]
  · simp (disch := omega) only [statusWord, BitVec.getLsbD_append, if_neg, BitVec.getLsbD_zero]

/-- IRQ_EN has the six enables from bit 21 down to bit 16 (R28). -/
theorem irqEnWord_fields (s : State) :
    irqEnWord s = 0#10 ++ BitVec.ofBool s.irqEn.accErr ++ BitVec.ofBool s.irqEn.cmdErr ++ BitVec.ofBool s.irqEn.ovr ++
      BitVec.ofBool s.irqEn.drop ++ BitVec.ofBool s.irqEn.warn ++ BitVec.ofBool s.irqEn.reading ++ 0#16 := by
  apply BitVec.eq_of_getLsbD_eq
  intro i hi
  simp only [irqEnWord, EventBits.toBits, BitVec.getLsbD_append]
  interval_cases i <;> simp

/-- Settles O49: a read at a register's address is `readReg`; STATUS is taken apart field by field. -/
theorem statusWordHoldsItsFields : Obligations.StatusWordHoldsItsFields := by
  intro s
  have hread (r : Reg) : (memRead (BitVec.ofNat 12 (regAddress r)) s).1 = readReg r s := by rw [memRead_regAddress]
  obtain ⟨hen, hkey, hid, hres⟩ := statusWord_flags s
  obtain ⟨h16, h17, h18, h19, h20, h21⟩ := statusWord_events s
  refine ⟨hread .status, hen, hkey, hid, hres, statusWord_phase s, h16, h17, h18, h19, h20, h21,
    fun b hb => statusWord_unused s hb, ?irqEn, hread .cmd, hread .result, hread .meterId, hread .frameLen,
    hread .crcVal, hread .totalRaw, hread .monthRaw, hread .temps, hread .framesRx, hread .crcErrs,
    fun j => hread (.key j), ?iv, fun j => hread (.frameWord j), fun j => hread (.plainWord j)⟩
  case irqEn => exact (hread .irqEn).trans (irqEnWord_fields s)
  case iv => exact fun j => (hread (.iv j)).trans (blockWord_bytes s.ivr j.val j.isLt)

end Sys2Proof.Machine
end

section
/-! SUPPORT. The receive queue in a step of the whole system (10_state.md R42; 20_memory.md R79; 41_acquisition.md
R170). -/

namespace Sys2Proof.Machine

open Sys2Proof.Claims

/-- Every move of the CORE but the sync detection and the pass takes the head of the queue (R79). -/
theorem coreStep_rxq (s : State) :
    (coreStep s).rxq = s.rxq ∨
      (s.phase ∈ [Phase.pre0, .pre1, .len, .body] ∧ ∃ b, s.rxq = b :: (coreStep s).rxq) := by
  cases coreStep_cases s with
  | hold _ e => exact .inl (by rw [e])
  | sync _ _ e => exact .inl (by rw [e]; rfl)
  | pass _ e => exact .inl (by rw [e]; exact framePass_rxq _ s)
  | preamble0 b _ hp hq e | preambleMatch b _ hp hq _ e | preambleMiss b _ hp hq _ e | lengthOk b _ hp hq _ e
  | lengthInvalid b _ hp hq _ e | bodyMore b _ hp hq _ e | bodyLast b _ hp hq _ e =>
    exact .inr ⟨by simp [hp], b, by rw [e]; simp [hq]⟩

/-- No command touches the receive queue, SOFT_RESET neither (R330). -/
theorem commandEffect_rxq (i : Instr) (s : State) : (commandEffect i s).rxq = s.rxq := by
  cases i with
  | stop => rcases stopCore_cases s with ⟨_, e⟩ | ⟨_, _, e⟩ | ⟨_, _, e⟩ <;> simp [commandEffect, e]
  | process => rcases processFrame_cases s with ⟨_, e⟩ | ⟨_, e⟩ <;> simp [commandEffect, e]
  | nop | keyLoad | start | deriveIv | ctr | crc | aesBlock | softReset => rfl

/-- Settles O17, by the moves of a step: of the operations only `dropRx`, `radioByte` and `radioFlush` touch `rxq`. -/
theorem receivedBytesAreTakenInOrder : Obligations.ReceivedBytesAreTakenInOrder := by
  intro s t h
  cases step_moves h with
  | core b hb e =>
    subst e
    rcases hb with ⟨hn, rfl⟩ | ⟨hc, rfl⟩
    · exact (coreStep_rxq b).imp id fun hpop => .inl ⟨.inl hn, hpop⟩
    · exact (coreStep_rxq (dropAction s)).imp id fun hpop => .inl ⟨.inr hc, hpop⟩
  | byte b ha e => exact .inr (.inr (.inl ⟨b, ha, by rw [e]; rfl⟩))
  | flush ha e => exact .inr (.inr (.inr ⟨ha, by rw [e]; rfl⟩))
  | read a _ e =>
    rcases hostRead_cases a (dropAction s) with hr | ⟨w, hr⟩ <;> exact .inl (by rw [e, hr]; rfl)
  | accepted _ v r _ _ _ _ e => exact .inl (by rw [e, writeLocked_frame]; rfl)
  | performed w i _ _ _ e => exact .inl (by rw [e]; exact commandEffect_rxq i (dropAction s))
  | ignored _ _ _ _ e | acknowledge _ _ e | enable _ _ e | illegal _ _ _ _ e | failed _ _ _ _ _ e | level _ _ e
  | reset _ e => exact .inl (by rw [e]; rfl)

end Sys2Proof.Machine
end

section
/-! SUPPORT. The accesses that are not accepted, and the registers that are never locked (20_memory.md R63 to R66). -/

namespace Sys2Proof.Machine

open Sys2Proof.Claims

/-! ### Misaligned and unmapped addresses -/

/-- Every register lies in the map of R61. -/
theorem mapped_regAddress (r : Reg) : mapped (regAddress r) := by
  cases r with
  | key j | iv j => revert j; decide
  | frameWord j | plainWord j => exact .inr (by simp only [regAddress]; omega)
  | _ => exact .inl (by decide)

/-- R64, R65: a misaligned or unmapped address reaches no register. -/
theorem reached_eq_none {a : BusAddr} (h : a.toNat % 4 ≠ 0 ∨ ¬ mapped a.toNat) : reached a = none :=
  (reached_none_iff a).2 (h.imp id fun hm r hr => hm (hr ▸ mapped_regAddress r))

theorem memRead_of_unreached {a : BusAddr} (h : reached a = none) (s : State) :
    memRead a s = (0#32, setAccErr s) := by
  simp [memRead, h]

theorem memWrite_of_unreached {a : BusAddr} (h : reached a = none) (v : Word) (s : State) :
    memWrite a v s = .next (setAccErr s) := by
  simp [memWrite, h]

/-- Settles O45: such an address reaches no register. -/
theorem misalignedAndUnmappedAccessesAreIgnored : Obligations.MisalignedAndUnmappedAccessesAreIgnored := by
  intro a v s h
  have hn := reached_eq_none h
  exact ⟨memRead_of_unreached hn s, memWrite_of_unreached hn v s⟩

/-! ### Read-only and locked registers -/

theorem regAddress_of_readOnly {n : Nat} (h : n ∈ [0x00C, 0x018, 0x040, 0x044, 0x048, 0x04C, 0x050]) :
    ∃ r : Reg, r.access = .ro ∧ n = regAddress r := by
  simp only [List.mem_cons, List.not_mem_nil, or_false] at h
  rcases h with rfl | rfl | rfl | rfl | rfl | rfl | rfl
  exacts [⟨.result, rfl, rfl⟩, ⟨.crcVal, rfl, rfl⟩, ⟨.totalRaw, rfl, rfl⟩, ⟨.monthRaw, rfl, rfl⟩, ⟨.temps, rfl, rfl⟩,
    ⟨.framesRx, rfl, rfl⟩, ⟨.crcErrs, rfl, rfl⟩]

theorem memWrite_readOnly {a : BusAddr} {r : Reg} (hr : reached a = some r) (hro : r.access = .ro) (v : Word)
    (s : State) : memWrite a v s = .next (setAccErr s) := by
  simp [memWrite, hr, hro]

theorem memWrite_lockedOut {a : BusAddr} {r : Reg} {s : State} (hr : reached a = some r) (hl : r.access = .locked)
    (he : s.en = true) (v : Word) : memWrite a v s = .next (setAccErr s) := by
  simp [memWrite, hr, hl, he]

/-! ### STATUS, IRQ_EN and CMD -/

theorem memWrite_status (v : Word) (s : State) : memWrite 0x000#12 v s = .next (ackEvents v s) := by
  have h : reached 0x000#12 = some .status := reached_regAddress .status
  simp [memWrite, h, Reg.access]

theorem memWrite_irqEn (v : Word) (s : State) : memWrite 0x004#12 v s = .next (setIrqEn v s) := by
  have h : reached 0x004#12 = some .irqEn := reached_regAddress .irqEn
  simp [memWrite, h, Reg.access]

theorem toBits_ofWord (v : Word) : (EventBits.ofWord v).toBits = v.extractLsb' 16 6 := by
  apply BitVec.eq_of_getLsbD_eq
  intro i hi
  simp only [EventBits.toBits, EventBits.ofWord, BitVec.getLsbD_append, BitVec.getLsbD_extractLsb']
  interval_cases i <;> simp

/-- IRQ_EN holds the six enables of the word written, and no other bit (R28, R63). -/
theorem irqEnWord_setIrqEn (v : Word) (s : State) : irqEnWord (setIrqEn v s) = v &&& 0x003F0000#32 := by
  apply BitVec.eq_of_getLsbD_eq
  intro i hi
  simp only [irqEnWord, setIrqEn_irqEn, toBits_ofWord, BitVec.getLsbD_append, BitVec.getLsbD_extractLsb',
    BitVec.getLsbD_and]
  interval_cases i <;> simp

/-- Settles O46: each address is one register's, and the write answers by its access rights. -/
theorem readOnlyAndLockedWritesAreIgnored : Obligations.ReadOnlyAndLockedWritesAreIgnored := by
  intro v s
  refine ⟨?readOnly, ?locked, memWrite_status v s, ?irqEn, ?cmd⟩
  case readOnly =>
    intro a ha
    obtain ⟨r, hro, haddr⟩ := regAddress_of_readOnly ha
    exact memWrite_readOnly (reached_of_toNat haddr) hro v s
  case locked =>
    intro a ha he
    obtain ⟨r, hl, haddr⟩ := regAddress_of_lockable ha
    exact memWrite_lockedOut (reached_of_toNat haddr) hl he v
  case irqEn =>
    have hread : memRead 0x004#12 (setIrqEn v s) = (irqEnWord (setIrqEn v s), setIrqEn v s) :=
      memRead_regAddress .irqEn _
    exact ⟨setIrqEn v s, memWrite_irqEn v s, by rw [hread, irqEnWord_setIrqEn], rfl⟩
  case cmd => exact fun i hd => (memWrite_cmd v s).trans (writeCommand_ok hd s)

/-! ### The event bits of STATUS -/

theorem toBits_w1c (e : EventBits) (v : Word) : (e.w1c v).toBits = e.toBits &&& ~~~v.extractLsb' 16 6 := by
  apply BitVec.eq_of_getLsbD_eq
  intro i hi
  simp only [EventBits.toBits, EventBits.w1c, BitVec.getLsbD_append, BitVec.getLsbD_and, BitVec.getLsbD_not,
    BitVec.getLsbD_extractLsb']
  interval_cases i <;> simp

/-- Bits 16 to 21 of STATUS are the events (R23). -/
theorem statusWord_event (s : State) {b : Nat} (hlo : 16 ≤ b) (hhi : b ≤ 21) :
    (statusWord s).getLsbD b = s.events.toBits.getLsbD (b - 16) := by
  interval_cases b <;> simp only [statusWord, BitVec.getLsbD_append] <;> rfl

/-- Below bit 16 STATUS shows no event (R23). -/
theorem statusWord_below_events (s : State) (e : EventBits) {b : Nat} (hb : b < 16) :
    (statusWord { s with events := e }).getLsbD b = (statusWord s).getLsbD b := by
  have hlow : b - 1 - 1 - 1 - 1 - 3 < 9 := by omega
  simp only [statusWord, BitVec.getLsbD_append, hlow, if_true]

theorem statusWord_ackEvents (v : Word) (s : State) (b : Nat) :
    (statusWord (ackEvents v s)).getLsbD b =
      ((statusWord s).getLsbD b && !(decide (16 ≤ b ∧ b ≤ 21) && v.getLsbD b)) := by
  by_cases hb : 16 ≤ b ∧ b ≤ 21
  · obtain ⟨hlo, hhi⟩ := hb
    have hsub : b - 16 < 6 := by omega
    have hadd : 16 + (b - 16) = b := by omega
    simp only [statusWord_event _ hlo hhi, ackEvents_events, toBits_w1c, BitVec.getLsbD_and, BitVec.getLsbD_not,
      BitVec.getLsbD_extractLsb', hadd]
    simp [hsub, hlo, hhi]
  · have hsame : (statusWord (ackEvents v s)).getLsbD b = (statusWord s).getLsbD b := by
      by_cases hlo : b < 16
      · exact statusWord_below_events s _ hlo
      · have hhi : 22 ≤ b := by omega
        rw [statusWord_unused _ (.inr hhi), statusWord_unused _ (.inr hhi)]
    simp [hsame, hb]

/-- Settles O50: the write is `ackEvents`, whose effect on STATUS is read bit by bit. -/
theorem statusWriteClearsExactlyTheNamedEvents : Obligations.StatusWriteClearsExactlyTheNamedEvents :=
  fun v s => ⟨ackEvents v s, memWrite_status v s, rfl, statusWord_ackEvents v s⟩

end Sys2Proof.Machine
end

section
/-! SUPPORT. The HOST held while a pass is pending (20_memory.md R72; 45_parser.md R270). -/

namespace Sys2Proof.Machine

/-- In PROC a host access is not taken from the agenda (R72; log 3). -/
theorem takenAction_held {s : State} {act : Action} {rest : List Action} (ha : s.agenda = act :: rest)
    (hhost : act.isHost = true) (hp : s.phase = .proc) : takenAction s = none := by
  simp [takenAction, ha, hhost, hostHeld, hp]

theorem coreStep_of_proc {s : State} (hp : s.phase = .proc) : coreStep s = passStep s := by
  simp [coreStep, hp]

/-- After a pass no pass is pending, so the head of the agenda is performed (R270, R345). -/
theorem step_passStep {s : State} {act : Action} {rest : List Action} (ha : s.agenda = act :: rest) :
    step (passStep s) = perform act { passStep s with agenda := rest } :=
  step_cons (by simpa [passStep] using ha) fun _ => by simp [passStep]

/-- Settles O7: the held step is the CORE's pass, and the next one performs the access. -/
theorem hostIsHeldForExactlyOnePass : Obligations.HostIsHeldForExactlyOnePass := by
  intro s act rest ha hact hp
  have hhost : act.isHost = true := by
    rcases hact with ⟨a, rfl⟩ | ⟨a, v, rfl⟩ <;> rfl
  constructor
  · rw [step_of_takenAction_none (takenAction_held ha hhost hp), coreStep_of_proc hp]
    rfl
  · exact step_passStep ha

end Sys2Proof.Machine
end

section
/-! SUPPORT. The decoder and the encoder are inverse, and the rows of the opcode table are disjoint (30_encoding.md R90
to R96). -/

namespace Sys2Proof

open Sys2Proof.Machine Sys2Proof.Claims

/-! ### The rows of the opcode table -/

/-- The command word of every instruction meets the instruction's own row (R92, R93). -/
theorem rowHit_encode (i : Instr) : rowHit (encode i) i := by
  cases i with
  | nop => exact Laws.RowPattern.nop
  | keyLoad => exact Laws.RowPattern.keyLoad
  | start => exact Laws.RowPattern.start
  | stop => exact Laws.RowPattern.stop
  | process => exact Laws.RowPattern.process
  | deriveIv => exact Laws.RowPattern.deriveIv
  | ctr a n => exact Laws.RowPattern.ctr a n
  | crc a n => exact Laws.RowPattern.crc a n
  | aesBlock a => exact Laws.RowPattern.aesBlock a
  | softReset => exact Laws.RowPattern.softReset

/-- The listed opcodes (R93, R94). -/
theorem opcode_listed (i : Instr) : opcode i ≤ 0x08 ∨ opcode i = 0x0F := by
  cases i <;> simp [opcode]

/-- A row's mask is determined by its opcode (R93). -/
theorem rowMask_eq_of_opcode (i : Instr) :
    rowMask i =
      if opcode i = 0x06 ∨ opcode i = 0x07 then 0xFFC0C0FF#32
      else if opcode i = 0x08 then 0xFFFFC0FF#32
      else 0xFFFFFFFF#32 := by
  cases i <;> rfl

theorem rowHit_congr {i j : Instr} (h : opcode i = opcode j) (w : Word) : rowHit w i ↔ rowHit w j := by
  simp only [rowHit, rowMask_eq_of_opcode, h]

/-- The masks keep the opcode field, so a word that meets a row holds the row's opcode in bits 7:0 (R90, R93). -/
theorem opcode_of_rowHit {w : Word} {i : Instr} (h : rowHit w i) : w.toNat % 256 = opcode i := by
  have hm : rowMask i &&& 0xFF#32 = 0xFF#32 := by cases i <;> simp [rowMask]
  have hlow : w &&& 0xFF#32 = BitVec.ofNat 32 (opcode i) &&& 0xFF#32 :=
    opcode_of_rowMatches (by simpa [rowMatches] using h) hm
  calc w.toNat % 256 = (w &&& 0xFF#32).toNat := (Nat.and_two_pow_sub_one_eq_mod w.toNat 8).symm
    _ = (BitVec.ofNat 32 (opcode i) &&& 0xFF#32).toNat := by rw [hlow]
    _ = opcode i := by cases i <;> simp [opcode]

/-- A word of a row, written with the operands of its own fields, meets that row too. -/
theorem rowHit_withOperandsOf (v w : Word) (i : Instr) : rowHit v (withOperandsOf w i) ↔ rowHit v i :=
  rowHit_congr (by cases i <;> rfl) v

/-! ### Decoding an encoded instruction -/

/-- An instruction is well formed when both its operands fit; an operand it does not have is 0 (R90, R92). -/
theorem wellFormed_iff (i : Instr) : i.WellFormed ↔ operandA i < 64 ∧ operandN i < 64 := by
  cases i <;> simp [Instr.WellFormed, Instr.wellFormed, operandA, operandN]

/-- The fields of an encoded instruction are its operands, where they fit (R90, R91). -/
theorem withOperandsOf_encode {i : Instr} (h : i.WellFormed) : withOperandsOf (encode i) i = i := by
  obtain ⟨ha, hn⟩ := (wellFormed_iff i).1 h
  have hA : aField (encode i) = operandA i := (aField_encode i).trans (Nat.mod_eq_of_lt ha)
  have hN : nField (encode i) = operandN i := (nField_encode i).trans (Nat.mod_eq_of_lt hn)
  cases i <;> simp only [withOperandsOf, hA, hN, operandA, operandN]

theorem decode_encode {i : Instr} (h : i.WellFormed) : decode (encode i) = .ok i := by
  rw [decode_of_row (encode i) i (rowHit_encode i), withOperandsOf_encode h]

/-- Settles O1: the encoded word meets the instruction's row, and its fields are the operands. -/
theorem decodeOfEncodeIsTheCommand : Obligations.DecodeOfEncodeIsTheCommand :=
  fun _ h => decode_encode h

/-! ### Encoding a decoded word -/

/-- A word that decodes meets the row of the instruction it decodes to, with the operands of its fields (R91, R93). -/
theorem rowHit_of_decode {w : Word} {i : Instr} (h : decode w = .ok i) : rowHit w i ∧ withOperandsOf w i = i := by
  rcases decode_cases w with ⟨j, hj, hrow, -⟩ | he
  · obtain rfl : i = j := by simpa [h] using hj
    have hfields : Except.ok (withOperandsOf w i) = .ok i := (decode_of_row w i hrow).symm.trans h
    exact ⟨hrow, Except.ok.inj hfields⟩
  · simp [h] at he

theorem wellFormed_withOperandsOf (w : Word) (i : Instr) : (withOperandsOf w i).WellFormed := by
  rw [wellFormed_iff]
  cases i <;> simp [withOperandsOf, operandA, operandN, aField_lt, nField_lt]

/-- Every bit of a word is in the mask of a row, or in an operand field that the row's instruction has (R92, R93). -/
theorem rowMask_or_operand (w : Word) (i : Instr) {b : Nat} (hb : b < 32) :
    (rowMask i).getLsbD b = true ∨
      (8 ≤ b ∧ b < 8 + 6 ∧ operandA (withOperandsOf w i) = aField w) ∨
      (16 ≤ b ∧ b < 16 + 6 ∧ operandN (withOperandsOf w i) = nField w) := by
  cases i <;> simp only [rowMask, withOperandsOf, operandA, operandN, and_true] <;> interval_cases b <;> simp

theorem getLsbD_eq_of_and_eq {x y m : Word} {b : Nat} (h : x &&& m = y &&& m) (hm : m.getLsbD b = true) :
    x.getLsbD b = y.getLsbD b := by
  simpa [hm] using congrArg (BitVec.getLsbD · b) h

theorem getLsbD_eq_of_field_eq {x y : Word} {start len b : Nat}
    (h : (x.extractLsb' start len).toNat = (y.extractLsb' start len).toNat) (hlo : start ≤ b)
    (hhi : b < start + len) : x.getLsbD b = y.getLsbD b := by
  have hbit := congrArg (BitVec.getLsbD · (b - start)) (BitVec.eq_of_toNat_eq h)
  have hlen : b - start < len := by omega
  simpa [hlen, Nat.add_sub_cancel' hlo] using hbit

/-- A word that meets a row is the encoding of the row's instruction with the word's own operands: the row fixes the
bits of its mask, and the operand fields give all the others (R90 to R93). -/
theorem encode_withOperandsOf {w : Word} {i : Instr} (h : rowHit w i) : encode (withOperandsOf w i) = w := by
  have hrow : encode (withOperandsOf w i) &&& rowMask i = w &&& rowMask i :=
    ((rowHit_withOperandsOf _ w i).1 (rowHit_encode _)).trans h.symm
  apply BitVec.eq_of_getLsbD_eq
  intro b hb
  rcases rowMask_or_operand w i hb with hm | ⟨hlo, hhi, ha⟩ | ⟨hlo, hhi, hn⟩
  · exact getLsbD_eq_of_and_eq hrow hm
  · have hfield : aField (encode (withOperandsOf w i)) = aField w := by
      rw [aField_encode, ha, Nat.mod_eq_of_lt (aField_lt w)]
    exact getLsbD_eq_of_field_eq hfield hlo hhi
  · have hfield : nField (encode (withOperandsOf w i)) = nField w := by
      rw [nField_encode, hn, Nat.mod_eq_of_lt (nField_lt w)]
    exact getLsbD_eq_of_field_eq hfield hlo hhi

/-- Settles O2: a decoded instruction is its row's with the operands of the word. -/
theorem encodeOfDecodeIsTheWord : Obligations.EncodeOfDecodeIsTheWord := by
  intro w i hd
  obtain ⟨hrow, hfields⟩ := rowHit_of_decode hd
  rw [← hfields]
  exact ⟨wellFormed_withOperandsOf w i, encode_withOperandsOf hrow⟩

/-! ### One row or none -/

/-- Settles O3: a word that meets a row decodes to that row with the operands of its fields, any other word is
illegal, and the row's opcode is the word's. -/
theorem decoderFindsExactlyOneRowOrNone : Obligations.DecoderFindsExactlyOneRowOrNone := by
  refine ⟨fun w => ?_, fun w i j hi hj => (opcode_of_rowHit hi).symm.trans (opcode_of_rowHit hj)⟩
  by_cases h : ∃ i, rowHit w i
  case pos =>
    obtain ⟨i, hi⟩ := h
    refine .inl ⟨withOperandsOf w i, decode_of_row w i hi, (rowHit_withOperandsOf w w i).2 hi, ?_, ?_⟩
    · intro a n han
      rw [← aField_eq, ← nField_eq]
      cases i <;> simp_all [withOperandsOf]
    · intro a ha
      rw [← aField_eq]
      cases i <;> simp_all [withOperandsOf]
  case neg =>
    have hnone : ∀ i, ¬ rowHit w i := fun i hi => h ⟨i, hi⟩
    exact .inr ⟨whyIllegal w, decode_of_no_row w hnone, hnone⟩

/-! ### Illegal words -/

/-- A word that does not decode changes nothing but CMD_RESULT and EV_CMD_ERR (R94; 40_host_commands.md R121). -/
theorem writeCommand_error {w : Word} {e : DecodeError} (hd : decode w = .error e) (s : State) :
    writeCommand w s = .next (failCommand .illegal s) := by
  simp [writeCommand, hd]

/-- Settles O5: a word of no row does not decode; a row asks for its own listed opcode, and one opcode has one row. -/
theorem illegalWordsExecuteNothing : Obligations.IllegalWordsExecuteNothing := by
  refine ⟨?effect, ?unlisted, ?maskFailed⟩
  case effect =>
    exact fun w s hnone => (memWrite_cmd w s).trans (writeCommand_error (decode_of_no_row w hnone) s)
  case unlisted =>
    intro w hw i hi
    have hop := opcode_of_rowHit hi
    have hlisted := opcode_listed i
    omega
  case maskFailed =>
    intro w i hop hi j hj
    exact hi ((rowHit_congr (hop.symm.trans (opcode_of_rowHit hj)) w).2 hj)

/-! ### The words of the table -/

/-- Settles O4: the ten closed words, each decoded. -/
theorem writtenOutWordsDecode : Obligations.WrittenOutWordsDecode := by
  unfold Obligations.WrittenOutWordsDecode
  decide

end Sys2Proof
end

section
/-! SUPPORT. What each command answers once its check passes (40_host_commands.md R120 to R127). -/

namespace Sys2Proof.Machine

/-! ### A command that passes its check -/

/-- A command that passes its check is performed whole and ends OK (R120). -/
theorem exec_of_ok {i : Instr} {s : State} (h : checkCommand i s = .ok) :
    exec i s = .next (setCmdResult .ok (commandEffect i s)) :=
  (exec_eq i s).trans (performCommand_of_ok h)

/-- NOP, STOP and SOFT_RESET need no key, no identity and no operand, so they complete in every state (R121). -/
theorem exec_always {i : Instr} (s : State) (h : allowedWhileEnabled i = true) :
    exec i s = .next (setCmdResult .ok (commandEffect i s)) := by
  refine exec_of_ok ((checkCommand_ok_iff i s).2 ⟨fun _ => h, ?_⟩)
  cases i with
  | nop | stop | softReset => exact ⟨nofun, nofun, rfl⟩
  | keyLoad | start | process | deriveIv | ctr | crc | aesBlock => cases h

/-- With EN = 0 a command asks for its key, its identity and its operand range only (R121). -/
theorem exec_disabled {i : Instr} {s : State} (he : s.en = false) (hk : needsKey i = true → s.keyValid = true)
    (hid : needsIdentity i = true → s.idValid = true) (hr : operandsInRange i = true) :
    exec i s = .next (setCmdResult .ok (commandEffect i s)) :=
  exec_of_ok ((checkCommand_ok_iff i s).2 ⟨fun h => by simp [he] at h, hk, hid, hr⟩)

/-! ### NOP, KEY_LOAD, START, STOP -/

/-- Settles O31: NOP's row is the word 0 alone, so any other word with its opcode is illegal. -/
theorem nopChangesOnlyTheCommandResult : Obligations.NopChangesOnlyTheCommandResult := by
  obtain ⟨illegal, -, maskFailed⟩ := illegalWordsExecuteNothing
  refine ⟨by decide, fun s => exec_always s rfl, fun w s hop hw => illegal w s (maskFailed w .nop hop ?_)⟩
  intro hrow
  exact hw ((and_allOnes w).symm.trans hrow)

/-- Settles O32: KEY_LOAD asks for EN = 0 only. -/
theorem keyLoadActivatesTheStagedKey : Obligations.KeyLoadActivatesTheStagedKey :=
  fun _ he => exec_disabled he nofun nofun rfl

/-- Settles O33: START asks for EN = 0, the key and the identity. -/
theorem startArmsTheReceiver : Obligations.StartArmsTheReceiver :=
  fun _ he hk hid => exec_disabled he (fun _ => hk) (fun _ => hid) rfl

theorem midFrame_iff (p : Phase) : midFrame p = true ↔ p ∈ [Phase.pre0, .pre1, .len, .body] := by
  cases p <;> decide

/-- Settles O34: STOP always completes, and its effect is one of the three of `stopCore_cases`. -/
theorem stopEndsAcquisition : Obligations.StopEndsAcquisition := by
  intro s
  have hexec : exec .stop s = .next (setCmdResult .ok (stopCore s)) := exec_always s rfl
  rw [← midFrame_iff]
  rcases stopCore_cases s with ⟨he, e⟩ | ⟨he, hm, e⟩ | ⟨he, hm, e⟩ <;> rw [e] at hexec
  · exact ⟨fun h => by simp [he] at h, fun h => by simp [he] at h, fun _ => hexec⟩
  · exact ⟨fun _ _ => hexec, fun _ h => absurd hm h, fun h => by simp [he] at h⟩
  · exact ⟨fun _ h => by simp [hm] at h, fun _ _ => hexec, fun h => by simp [he] at h⟩

/-! ### PROCESS, DERIVE_IV -/

/-- Settles O35: PROCESS is the pass on FRAME_BUF or LENGTH_INVALID, and a pass keeps PHASE, EN, FRAMES_RX and the
Rearm requests. -/
theorem processRunsAPassOnTheHostsFrame : Obligations.ProcessRunsAPassOnTheHostsFrame := by
  intro s he hk hid
  have hexec : exec .process s = .next (setCmdResult .ok (processFrame s)) :=
    exec_disabled he (fun _ => hk) (fun _ => hid) rfl
  rcases processFrame_cases s with ⟨hl, e⟩ | ⟨hl, e⟩ <;> rw [e] at hexec
  · have hlen := (lenOk_iff _).1 hl
    exact ⟨fun _ _ => ⟨_, hexec, rfl, framePass_rearmEvents _ s, framePass_framesRx _ s, framePass_phase _ s,
      (framePass_en _ s).trans he⟩, fun hbad => by omega⟩
  · have hlen := (lenOk_eq_false_iff _).1 hl
    exact ⟨fun _ _ => by omega, fun _ => hexec⟩

/-- Byte `i` of the IV: a header byte or zero (42_decryptor.md R194). -/
theorem blockByte_deriveIv (f : Nat → Byte) {i : Nat} (h : i < 16) :
    blockByte (deriveIv f) i =
      if i < 8 then f (i + 1) else if i = 8 then f 10 else if i < 13 then f (i + 3) else 0x00#8 :=
  blockByte_blockOfBytes _ i h

/-- Settles O36: DERIVE_IV asks for EN = 0 only, and the IV is read byte by byte. -/
theorem deriveIvTakesTheHeaderBytes : Obligations.DeriveIvTakesTheHeaderBytes := by
  intro s he
  refine ⟨deriveIv (frameByte s), exec_disabled he nofun nofun rfl, ?_, ?_, ?_, ?_⟩
  · intro j hj
    rw [blockByte_deriveIv _ (by omega), if_pos hj, Nat.add_comm]
  · simp [blockByte_deriveIv]
  · intro j hj
    rw [blockByte_deriveIv _ (by omega), if_neg (by omega), if_neg (by omega), if_pos (by omega),
      show 9 + j + 3 = 12 + j by omega]
  · intro j hj
    rw [blockByte_deriveIv _ (by omega), if_neg (by omega), if_neg (by omega), if_neg (by omega)]

end Sys2Proof.Machine
end

section
/-! SUPPORT. The commands that run one unit on PLAIN_BUF (40_host_commands.md R128 to R130). -/

namespace Sys2Proof.Machine

/-! ### The counter mode byte by byte -/

/-- Byte `j` of the keystream: byte `j mod 16` of the encryption of the counter `IV + j / 16` (42_decryptor.md R196 to
R198). -/
def keystreamByte (iv : Block) (rk : Vector Block 11) (j : Nat) : Byte :=
  blockByte (aesEncrypt (iv + BitVec.ofNat 128 (j / 16)) rk) (j % 16)

theorem ctrXor_getD (d : List Byte) (iv : Block) (rk : Vector Block 11) {j : Nat} (h : j < d.length) :
    (ctrXor d iv rk).1.getD j 0#8 = d.getD j 0#8 ^^^ keystreamByte iv rk j :=
  ctrBlocks_getD rk _ d iv j h (by omega)

/-- The counter ends after the last block (R197; log 15). -/
theorem ctrXor_counter (d : List Byte) (iv : Block) (rk : Vector Block 11) :
    (ctrXor d iv rk).2 = iv + BitVec.ofNat 128 ((d.length + 15) / 16) :=
  ctrBlocks_counter rk _ d iv

/-! ### CTR -/

theorem plainByte_eq (s : State) (k : Nat) : plainByte s k = Memory.byteAt s.mem (0x140 + k) := rfl

/-- CTR completes with EN = 0, the key and operands in range (R121, R128). -/
theorem exec_ctr {a n : Nat} {s : State} (he : s.en = false) (hk : s.keyValid = true) (hn : 1 ≤ n)
    (hr : a + n ≤ 48) : exec (.ctr a n) s = .next (setCmdResult .ok (ctrInPlace a n s)) :=
  exec_disabled he (fun _ => hk) nofun ((operandsInRange_ctr a n).2 ⟨hn, hr⟩)

/-- Every byte of memory after CTR's pseudocode: inside `PLAIN_BUF[a .. a+n)` xored with the keystream byte of its
position, elsewhere as before (R128). -/
theorem byteAt_ctrInPlace (a n x : Nat) (s : State) :
    Memory.byteAt (ctrInPlace a n s).mem x =
      if 0x140 + a ≤ x ∧ x < 0x140 + a + n then
        Memory.byteAt s.mem x ^^^ keystreamByte s.ivr s.rk (x - (0x140 + a))
      else Memory.byteAt s.mem x := by
  have hlen : (plainSlice s a n).length = n := slice_length _ a n
  simp only [ctrInPlace, setCtr_mem, writePlain_mem, byteAt_writeBytes, ctrXor_length, hlen, Config.plainBase]
  split
  · rename_i hx
    have hj : x - (0x140 + a) < n := by omega
    have haddr : 0x140 + (a + (x - (0x140 + a))) = x := by omega
    rw [ctrXor_getD _ _ _ (by omega), plainSlice, slice_getD _ _ _ _ hj, plainByte_eq, haddr]
  · rfl

/-- Settles O37: with the check passed the effect is `ctrInPlace`, whose memory and counter are known. -/
theorem ctrCommandXorsTheKeystream : Obligations.CtrCommandXorsTheKeystream := by
  intro s a n he hk hn hr
  have hctr : (ctrInPlace a n s).ctr = s.ivr + BitVec.ofNat 128 ((n + 15) / 16) := by
    simp [ctrInPlace, ctrXor_counter, plainSlice]
  refine ⟨(ctrInPlace a n s).mem, ?_, ?_, ?_⟩
  · rw [exec_ctr he hk hn hr, ← hctr]
    rfl
  · intro j hj
    rw [byteAt_ctrInPlace, if_pos (by omega), Nat.add_sub_cancel_left, Nat.add_assoc]
    rfl
  · intro x hx
    rw [byteAt_ctrInPlace, if_neg hx]

/-- Settles O38: the first CTR keeps IVR and the round keys, so the second xors with the same keystream. -/
theorem ctrCommandTwiceRestoresTheData : Obligations.CtrCommandTwiceRestoresTheData := by
  intro s t u a n he hk hn hr ht hu x
  obtain rfl : setCmdResult .ok (ctrInPlace a n s) = t := by simpa [exec_ctr he hk hn hr] using ht
  rw [exec_ctr (s := setCmdResult .ok (ctrInPlace a n s)) he hk hn hr] at hu
  cases hu
  have hivr : (ctrInPlace a n s).ivr = s.ivr := rfl
  have hrk : (ctrInPlace a n s).rk = s.rk := rfl
  simp only [setCmdResult_mem, setCmdResult_ivr, setCmdResult_rk, byteAt_ctrInPlace, hivr, hrk]
  split
  · rw [BitVec.xor_assoc, BitVec.xor_self, BitVec.xor_zero]
  · rfl

/-! ### CRC -/

/-- The CRC of no byte is the final xor alone (44_integrity_crc.md R241). -/
theorem crc16_nil : crc16 [] = 0xFFFF#16 := by decide

/-- Settles O39: CRC asks for EN = 0 and its operand range only, and with N = 0 the slice is empty. -/
theorem crcCommandComputesTheCrc : Obligations.CrcCommandComputesTheCrc := by
  intro s a n he hr
  have hexec : exec (.crc a n) s = .next (setCmdResult .ok (crcOfPlain a n s)) :=
    exec_disabled he nofun nofun ((operandsInRange_crc a n).2 hr)
  refine ⟨hexec, ?_⟩
  rintro rfl
  have hnone : crc16 (plainSlice s a 0) = 0xFFFF#16 := crc16_nil
  rw [hexec, crcOfPlain, hnone]
  rfl

/-! ### AES_BLOCK -/

/-- A block is determined by its sixteen bytes (00_scope.md R10). -/
theorem block_ext {x y : Block} (h : ∀ i, i < 16 → blockByte x i = blockByte y i) : x = y := by
  apply BitVec.eq_of_getLsbD_eq
  intro b hb
  have hbit := congrArg (BitVec.getLsbD · (b % 8)) (h (15 - b / 8) (by omega))
  have hpos : 8 * (15 - (15 - b / 8)) + b % 8 = b := by omega
  simpa [blockByte, hpos, Nat.mod_lt] using hbit

/-- Settles O40: the input block is the one its sixteen bytes determine, and the bytes written are those of its
encryption. -/
theorem aesBlockEncryptsInPlace : Obligations.AesBlockEncryptsInPlace := by
  intro s a he hk ha
  have hexec : exec (.aesBlock a) s = .next (setCmdResult .ok (aesInPlace a s)) :=
    exec_disabled he (fun _ => hk) nofun ((operandsInRange_aesBlock a).2 (by omega))
  refine ⟨(aesInPlace a s).mem, hexec, ?_, ?_⟩
  · intro inp hinp j hj
    have hin : 0x140 + a ≤ 0x140 + a + j ∧ 0x140 + a + j < 0x140 + a + 16 := by omega
    obtain rfl : inp = blockOfBytes fun i => plainByte s (a + i) := by
      refine block_ext fun i hi => ?_
      rw [hinp i hi, blockByte_blockOfBytes _ i hi]
    rw [aesInPlace, writePlain_mem, byteAt_writeBytes, blockBytes_length, if_pos hin, Nat.add_sub_cancel_left,
      blockBytes_getD _ _ hj]
  · intro x hx
    rw [aesInPlace, writePlain_mem, byteAt_writeBytes, blockBytes_length, if_neg hx]

end Sys2Proof.Machine
end

section
/-! SUPPORT. The result of a word written to CMD (40_host_commands.md R120, R121; 60_exceptions.md R288). -/

namespace Sys2Proof.Machine

open Sys2Proof.Claims

/-! ### The classes of R121 by opcode -/

theorem allowedWhileEnabled_iff (i : Instr) : allowedWhileEnabled i = true ↔ opcode i ∈ [0x00, 0x03, 0x0F] := by
  cases i <;> simp [allowedWhileEnabled, opcode]

theorem needsKey_iff (i : Instr) : needsKey i = true ↔ opcode i ∈ [0x02, 0x04, 0x06, 0x08] := by
  cases i <;> simp [needsKey, opcode]

theorem needsIdentity_iff (i : Instr) : needsIdentity i = true ↔ opcode i ∈ [0x02, 0x04] := by
  cases i <;> simp [needsIdentity, opcode]

theorem opcode_withOperandsOf (w : Word) (i : Instr) : opcode (withOperandsOf w i) = opcode i := by
  cases i <;> rfl

/-- The operand check of R121 in the fields of the word. -/
theorem operandCheck_withOperandsOf (w : Word) (i : Instr) :
    (if ¬ operandsInRange (withOperandsOf w i) = true then CmdResult.badOperand else .ok) =
      if opcode i = 0x06 ∧ ¬ (1 ≤ nField w ∧ aField w + nField w ≤ 48) then .badOperand
      else if opcode i = 0x07 ∧ ¬ (aField w + nField w ≤ 48) then .badOperand
      else if opcode i = 0x08 ∧ ¬ (aField w + 16 ≤ 48) then .badOperand
      else .ok := by
  cases i with
  | ctr => simp [withOperandsOf, opcode, operandsInRange_ctr]
  | crc => simp [withOperandsOf, opcode, operandsInRange_crc]
  | aesBlock => simp [withOperandsOf, opcode, operandsInRange_aesBlock]
  | nop | keyLoad | start | stop | process | deriveIv | softReset => simp [withOperandsOf, opcode, operandsInRange]

/-! ### The result and the effect of a failed check -/

/-- The result a command leaves is the one of its check (R120). -/
theorem cmdResult_of_exec {i : Instr} {s t : State} (h : exec i s = .next t) : t.cmdResult = checkCommand i s := by
  rcases exec_cases h with ⟨hc, e⟩ | ⟨-, e⟩ <;> cases e
  · exact hc.symm
  · rfl

/-- Settles O43: a word of no row is illegal; a word of a row runs its command, whose check is read by opcode and
operand fields. -/
theorem commandResultFollowsTheCheckOrder : Obligations.CommandResultFollowsTheCheckOrder := by
  intro w s
  by_cases h : ∃ i, rowHit w i
  case pos =>
    obtain ⟨i, hi⟩ := h
    obtain ⟨t, ht⟩ := exec_next (withOperandsOf w i) s
    have hwrite : writeCommand w s = .next t := (writeCommand_ok (decode_of_row w i hi) s).trans ht
    refine ⟨t, (memWrite_cmd w s).trans hwrite, fun hnone => absurd hi (hnone i), ?_⟩
    rintro _ _ _ - rfl rfl rfl
    rw [cmdResult_of_exec ht, opcode_of_rowHit hi, ← aField_eq, ← nField_eq]
    simp only [checkCommand, operandCheck_withOperandsOf, Bool.and_eq_true, ← Bool.not_eq_true, Bool.not_eq_true',
      allowedWhileEnabled_iff, needsKey_iff, needsIdentity_iff, opcode_withOperandsOf]
  case neg =>
    have hnone : ∀ i, ¬ rowHit w i := fun i hi => h ⟨i, hi⟩
    have hwrite : writeCommand w s = .next (failCommand .illegal s) :=
      writeCommand_error (decode_of_no_row w hnone) s
    exact ⟨_, (memWrite_cmd w s).trans hwrite, fun _ => rfl, fun _ _ _ hrow => absurd hrow h⟩

/-- Settles O44: a result other than OK comes from an illegal word or a failed check, and both end in `failCommand`. -/
theorem failedCommandChangesNothingElse : Obligations.FailedCommandChangesNothingElse := by
  intro w s t h hr
  rcases writeCommand_cases ((memWrite_cmd w s).symm.trans h) with ⟨i, -, he⟩ | ⟨e, -, he⟩
  · rcases exec_cases he with ⟨-, hok⟩ | ⟨-, hfail⟩
    · cases hok
      exact absurd rfl hr
    · cases hfail
      rfl
  · cases he
    rfl

end Sys2Proof.Machine
end

section
/-! SUPPORT. A turn of the CORE in each phase, and a whole frame over the radio path (41_acquisition.md R160 to R171;
45_parser.md R270). -/

namespace Sys2Proof.Machine

/-! ### A turn that takes a byte, and one that holds -/

theorem dropRx_cons {s : State} {b : Byte} {bs : List Byte} (hq : s.rxq = b :: bs) :
    dropRx s = { s with rxq := bs } := by
  simp [dropRx, hq]

theorem takeByte_cons (f : Byte → State → State) {s : State} {b : Byte} {bs : List Byte} (hq : s.rxq = b :: bs) :
    takeByte f s = f b { s with rxq := bs } := by
  simp [takeByte, hq, dropRx_cons hq]

/-- With no byte to take the CORE holds (R169). -/
theorem coreStep_of_rxq_nil {s : State} (hp : s.phase ∈ [Phase.pre0, .pre1, .len, .body]) (hq : s.rxq = []) :
    coreStep s = s := by
  rw [coreStep_eq_self_iff, ← Bool.not_eq_true, coreEnabled_iff]
  rintro (⟨h, -⟩ | ⟨-, h⟩ | h)
  · simp [h] at hp
  · exact h hq
  · simp [h] at hp

/-! ### WAIT_SYNC and PRE0 -/

theorem coreStep_of_waitSync {s : State} (hp : s.phase = .waitSync) : coreStep s = syncStep s := by
  simp [coreStep, hp]

/-- Settles O20, by the two levels of `sync_n`. -/
theorem syncDetectionIsALowLevel : Obligations.SyncDetectionIsALowLevel := by
  intro s hp
  rw [coreStep_of_waitSync hp]
  exact ⟨fun hn => by simp [syncStep, hn, setPhase], fun hn => by simp [syncStep, hn]⟩

/-- Settles O21, by the head of `rxq`: there is one, or the CORE holds. -/
theorem preambleByteZeroIsStored : Obligations.PreambleByteZeroIsStored := by
  intro s hp
  refine ⟨fun b bs hq => ?_, coreStep_of_rxq_nil (by simp [hp])⟩
  calc coreStep s = takeByte preambleByte0 s := by simp [coreStep, hp]
    _ = preambleByte0 b { s with rxq := bs } := takeByte_cons _ hq

/-! ### PRE1 -/

theorem coreStep_of_pre1 {s : State} {b : Byte} {bs : List Byte} (hp : s.phase = .pre1) (hq : s.rxq = b :: bs) :
    coreStep s = preambleByte1 b { s with rxq := bs } := by
  rw [← takeByte_cons preambleByte1 hq]
  simp [coreStep, hp]

/-- Settles O22, by the comparison of the pair. -/
theorem preamblePairIsCompared : Obligations.PreamblePairIsCompared := by
  intro s hp
  refine ⟨fun b bs hq h0 h1 => ?matched, fun b bs hq hne => ?missed, coreStep_of_rxq_nil (by simp [hp])⟩ <;>
    rw [coreStep_of_pre1 hp hq, preambleByte1]
  case matched =>
    rw [if_pos ⟨h0, h1⟩]
    rfl
  case missed =>
    rw [if_neg fun ⟨h0, h1⟩ => hne.elim (· h0) (· h1)]
    rfl

/-! ### LEN -/

theorem coreStep_of_len {s : State} {l : Byte} {bs : List Byte} (hp : s.phase = .len) (hq : s.rxq = l :: bs) :
    coreStep s = lengthByte l { s with rxq := bs } := by
  rw [← takeByte_cons lengthByte hq]
  simp [coreStep, hp]

/-- Settles O23, by the check of the length. -/
theorem lengthByteIsValidated : Obligations.LengthByteIsValidated := by
  intro s hp
  refine ⟨fun l bs hq hlo hhi => ?valid, fun l bs hq hbad => ?invalid, coreStep_of_rxq_nil (by simp [hp])⟩ <;>
    rw [coreStep_of_len hp hq, lengthByte]
  case valid =>
    rw [if_pos ((lenOk_iff _).2 ⟨hlo, hhi⟩)]
    rfl
  case invalid =>
    rw [if_neg (Bool.not_eq_true _ ▸ (lenOk_eq_false_iff _).2 hbad)]
    rfl

/-! ### BODY -/

/-- Below a valid length `BODY_CNT` does not wrap (log 9). -/
theorem toNat_bodyCnt_succ {c : BitVec 6} (h : c.toNat < 63) : (c + 1#6).toNat = c.toNat + 1 := by
  rw [BitVec.toNat_add_of_lt (by simp; omega)]
  rfl

theorem storeBodyByte_eq (b : Byte) (s : State) :
    storeBodyByte b s =
      { s with mem := Memory.write s.mem (0x100 + s.bodyCnt.toNat) b, bodyCnt := s.bodyCnt + 1#6 } := rfl

theorem endOfBody_eq (s : State) :
    endOfBody s =
      { s with rearmEvents := s.rearmEvents ++ [.rearm], framesRx := s.framesRx + 1#32, phase := .proc } := rfl

section

variable {s : State} {b : Byte} {bs : List Byte} (hp : s.phase = .body) (hq : s.rxq = b :: bs)

include hp hq

theorem coreStep_of_body : coreStep s = bodyByte b { s with rxq := bs } := by
  rw [← takeByte_cons bodyByte hq]
  simp [coreStep, hp]

/-- A byte before the last one of a body (R165). -/
theorem coreStep_bodyMore (hn : (s.bodyCnt + 1#6).toNat ≠ s.frameLen.toNat) :
    coreStep s = { s with
      rxq := bs, mem := Memory.write s.mem (0x100 + s.bodyCnt.toNat) b, bodyCnt := s.bodyCnt + 1#6 } := by
  rw [coreStep_of_body hp hq, bodyByte, if_neg (by simpa using hn), storeBodyByte_eq]

/-- The last byte of a body (R165, R166). -/
theorem coreStep_bodyLast (hn : (s.bodyCnt + 1#6).toNat = s.frameLen.toNat) :
    coreStep s = { s with
      rxq := bs, mem := Memory.write s.mem (0x100 + s.bodyCnt.toNat) b, bodyCnt := s.bodyCnt + 1#6
      rearmEvents := s.rearmEvents ++ [.rearm], framesRx := s.framesRx + 1#32, phase := .proc } := by
  rw [coreStep_of_body hp hq, bodyByte, if_pos (by simpa using hn), storeBodyByte_eq, endOfBody_eq]

end

/-- Settles O24: the memory is the one with the byte written, and the counter tells the last byte. -/
theorem bodyByteIsStored : Obligations.BodyByteIsStored := by
  intro s b bs hp hl hlt hq
  have hlen := (lenOk_iff _).1 hl
  have hsucc := toNat_bodyCnt_succ (show s.bodyCnt.toNat < 63 by omega)
  refine ⟨Memory.write s.mem (0x100 + s.bodyCnt.toNat) b, fun a => ?_, fun hmore => ?_, fun hlast => ?_⟩
  · simp only [byteAt_write, eq_comm]
  · exact coreStep_bodyMore hp hq (by omega)
  · exact coreStep_bodyLast hp hq (by omega)

/-! ### A whole frame -/

/-- The turns of a body: all its bytes from `BODY_CNT` on are taken, stored and counted, and PROC is reached. -/
theorem coreStep_iterate_body {s : State} {frame rest : List Byte} (hne : frame ≠ []) (hp : s.phase = .body)
    (hq : s.rxq = frame ++ rest) (hcount : s.bodyCnt.toNat + frame.length = s.frameLen.toNat)
    (hmax : s.frameLen.toNat ≤ 63) :
    coreStep^[frame.length] s = { s with
      rxq := rest, mem := Memory.writeBytes s.mem (0x100 + s.bodyCnt.toNat) frame
      bodyCnt := BitVec.ofNat 6 s.frameLen.toNat, rearmEvents := s.rearmEvents ++ [.rearm]
      framesRx := s.framesRx + 1#32, phase := .proc } := by
  induction frame generalizing s with
  | nil => exact absurd rfl hne
  | cons b frame ih =>
    rw [List.length_cons] at hcount
    have hsucc := toNat_bodyCnt_succ (show s.bodyCnt.toNat < 63 by omega)
    rw [List.length_cons, Function.iterate_succ_apply]
    cases frame with
    | nil =>
      have hlast : (s.bodyCnt + 1#6).toNat = s.frameLen.toNat := by
        rw [List.length_nil] at hcount
        omega
      rw [coreStep_bodyLast hp hq hlast, ← hlast, BitVec.ofNat_toNat, BitVec.setWidth_eq]
      rfl
    | cons c frame =>
      have hmore : (s.bodyCnt + 1#6).toNat ≠ s.frameLen.toNat := by
        rw [List.length_cons] at hcount
        omega
      rw [coreStep_bodyMore hp hq hmore]
      refine Eq.trans (ih (List.cons_ne_nil _ _) hp rfl ?_ hmax) ?_
      · dsimp only
        omega
      · dsimp only
        rw [hsucc]
        rfl

/-- From WAIT_SYNC to BODY: the sync level, the preamble and a valid length take four turns (R160 to R164). -/
theorem coreStep_iterate_header {s : State} {l : Byte} {bs : List Byte} (hp : s.phase = .waitSync)
    (hn : s.syncN = false) (hl : lenOk l.toNat = true) (hq : s.rxq = 0x54#8 :: 0x3D#8 :: l :: bs) :
    coreStep^[4] s = { s with
      phase := .body, rxq := bs, preByte0 := 0x54#8, frameLen := l, bodyCnt := 0#6 } := by
  obtain ⟨hlo, hhi⟩ := (lenOk_iff _).1 hl
  have hsync := (syncDetectionIsALowLevel s hp).1 hn
  have hpre0 := (preambleByteZeroIsStored { s with phase := .pre0 } rfl).1 _ _ hq
  have hpre1 := (preamblePairIsCompared
    { s with phase := .pre1, preByte0 := 0x54#8, rxq := 0x3D#8 :: l :: bs } rfl).1 _ _ rfl rfl rfl
  have hlen := (lengthByteIsValidated
    { s with phase := .len, preByte0 := 0x54#8, rxq := l :: bs } rfl).1 _ _ rfl hlo hhi
  simp only [Function.iterate_succ_apply, Function.iterate_zero_apply, hsync, hpre0, hpre1, hlen]

/-- Settles O26: four turns to BODY, one for each byte of the frame, and the pass. -/
theorem radioPathReceivesAWholeFrame : Obligations.RadioPathReceivesAWholeFrame := by
  intro s frame rest hp hn hlo hhi hq
  have hlen : (BitVec.ofNat 8 frame.length).toNat = frame.length := by simp; omega
  have hl : lenOk (BitVec.ofNat 8 frame.length).toNat = true := (lenOk_iff _).2 (by omega)
  have hne : frame ≠ [] := List.ne_nil_of_length_pos (by omega)
  rw [show frame.length + 5 = 1 + (frame.length + 4) by omega, Function.iterate_add_apply, Function.iterate_add_apply,
    coreStep_iterate_header hp hn hl hq,
    coreStep_iterate_body hne rfl rfl (by simpa using hlen.symm) (by simpa [hlen] using hhi),
    Function.iterate_one, coreStep_of_proc rfl]
  simp only [passStep, setPhase, hlen]
  rfl

/-! ### The sync level outside WAIT_SYNC -/

/-- Taking a byte does not look at `sync_n` where what is done with the byte does not. -/
theorem takeByte_radioSync {f : Byte → State → State} {level : Bool}
    (hf : ∀ b s, f b (radioSync level s) = radioSync level (f b s)) (s : State) :
    takeByte f (radioSync level s) = radioSync level (takeByte f s) := by
  cases hq : s.rxq with
  | nil => simp [takeByte, radioSync, hq]
  | cons b bs =>
    calc takeByte f (radioSync level s) = f b (radioSync level { s with rxq := bs }) := takeByte_cons f hq
      _ = radioSync level (f b { s with rxq := bs }) := hf _ _
      _ = radioSync level (takeByte f s) := by rw [takeByte_cons f hq]

theorem preambleByte1_radioSync (b : Byte) (level : Bool) (s : State) :
    preambleByte1 b (radioSync level s) = radioSync level (preambleByte1 b s) := by
  unfold preambleByte1
  rw [apply_ite (radioSync level)]
  rfl

theorem lengthByte_radioSync (l : Byte) (level : Bool) (s : State) :
    lengthByte l (radioSync level s) = radioSync level (lengthByte l s) := by
  unfold lengthByte
  rw [apply_ite (radioSync level)]
  rfl

theorem bodyByte_radioSync (b : Byte) (level : Bool) (s : State) :
    bodyByte b (radioSync level s) = radioSync level (bodyByte b s) := by
  unfold bodyByte
  rw [apply_ite (radioSync level)]
  rfl

/-- Settles O25, phase by phase. -/
theorem syncLevelIsIgnoredInsideAFrame : Obligations.SyncLevelIsIgnoredInsideAFrame := by
  intro s level hne
  change coreStep (radioSync level s) = radioSync level (coreStep s)
  cases hp : s.phase <;> simp only [coreStep, radioSync_phase, hp]
  case waitSync => exact absurd hp hne
  case pre0 => exact takeByte_radioSync (f := preambleByte0) (fun _ _ => rfl) s
  case pre1 => exact takeByte_radioSync (fun b s => preambleByte1_radioSync b level s) s
  case len => exact takeByte_radioSync (fun l s => lengthByte_radioSync l level s) s
  case body => exact takeByte_radioSync (fun b s => bodyByte_radioSync b level s) s
  case proc => exact congrArg (setPhase .waitSync) (framePass_with_syncN s.frameLen.toNat s level)

/-! ### The address -/

/-- Four bytes are a little-endian word exactly when they are its bytes in reverse order. -/
theorem le32_eq_iff (x : Nat → Byte) (o : Nat) (w : Word) :
    le32 x o = w ↔ x o = wordByte w 3 ∧ x (o + 1) = wordByte w 2 ∧ x (o + 2) = wordByte w 1 ∧
      x (o + 3) = wordByte w 0 := by
  constructor
  · rintro rfl
    have hbyte := wordByte_wordOfBytes fun i => x (o + (3 - i))
    exact ⟨(hbyte 3 (by decide)).symm, (hbyte 2 (by decide)).symm, (hbyte 1 (by decide)).symm,
      (hbyte 0 (by decide)).symm⟩
  · rintro ⟨h3, h2, h1, h0⟩
    rw [le32, h3, h2, h1, h0]
    exact wordOfBytes_wordByte w

theorem addrMatch_iff (s : State) :
    addrMatch s = true ↔ frameByte s 3 = idByte s 3 ∧ frameByte s 4 = idByte s 2 ∧ frameByte s 5 = idByte s 1 ∧
      frameByte s 6 = idByte s 0 := by
  simp [addrMatch, List.range, List.range.loop]

theorem idByte_toNat (s : State) {j : Nat} (hj : j < 4) :
    (idByte s j).toNat = s.meterId.toNat / 2 ^ (24 - 8 * j) % 256 := by
  rw [idByte, wordByte, BitVec.extractLsb'_toNat, Nat.shiftRight_eq_div_pow, show 8 * (3 - j) = 24 - 8 * j by omega]

/-- Settles O27: byte by byte, and as the word the four bytes make. -/
theorem addressIsMatchedInReverse : Obligations.AddressIsMatchedInReverse := fun s =>
  ⟨addrMatch_iff s, (addrMatch_iff s).trans (le32_eq_iff (frameByte s) 3 s.meterId).symm, fun _ => idByte_toNat s⟩

end Sys2Proof.Machine
end

section
/-! SUPPORT. The re-arm requests a step of the whole system emits (10_state.md R41; 40_host_commands.md R124;
41_acquisition.md R163, R164, R166, R167). -/

namespace Sys2Proof.Machine

open Sys2Proof.Claims

/-- A turn of the CORE from `s` to `t` ends a frame attempt (R167). -/
abbrev EndsAttempt (s t : State) : Prop := s.phase ∈ [Phase.pre1, .len, .body] ∧ t.phase ∈ [Phase.waitSync, .proc]

/-- The step writes START to CMD and its check passes (R121, R124). -/
abbrev StartSucceeds (s : State) : Prop :=
  takesCommand s 0x00000002#32 ∧ s.en = false ∧ s.keyValid = true ∧ s.idValid = true

/-- The moves of the CORE that end an attempt are the ones that emit a Rearm. -/
theorem coreStep_rearmEvents (s : State) :
    (coreStep s).rearmEvents =
      if EndsAttempt s (coreStep s) then s.rearmEvents ++ [.rearm] else s.rearmEvents := by
  cases coreStep_cases s with
  | hold _ e =>
    have hno : ¬ EndsAttempt s s := by cases hp : s.phase <;> simp [EndsAttempt, hp]
    rw [e, if_neg hno]
  | sync hp _ e | preamble0 _ _ hp _ e | preambleMatch _ _ hp _ _ e | preambleMiss _ _ hp _ _ e
  | lengthOk _ _ hp _ _ e | lengthInvalid _ _ hp _ _ e | bodyMore _ _ hp _ _ e | bodyLast _ _ hp _ _ e =>
    rw [e]
    simp [hp]
  | pass hp e =>
    rw [e]
    simp [EndsAttempt, passStep, hp]

theorem processFrame_rearmEvents (s : State) : (processFrame s).rearmEvents = s.rearmEvents := by
  rcases processFrame_cases s with ⟨_, e⟩ | ⟨_, e⟩ <;> rw [e] <;> simp

theorem stopCore_rearmEvents (s : State) : (stopCore s).rearmEvents = s.rearmEvents := by
  rcases stopCore_cases s with ⟨_, e⟩ | ⟨_, _, e⟩ | ⟨_, _, e⟩ <;> rw [e] <;> rfl

/-- Of the commands only START emits a Rearm; SOFT_RESET keeps those emitted (R330). -/
theorem commandEffect_rearmEvents {i : Instr} (s : State) (hstart : i ≠ .start) :
    (commandEffect i s).rearmEvents = s.rearmEvents := by
  cases i with
  | start => exact absurd rfl hstart
  | process => exact processFrame_rearmEvents s
  | stop => exact stopCore_rearmEvents s
  | nop | keyLoad | deriveIv | ctr | crc | aesBlock | softReset => rfl

/-- A START that succeeds performs its effect (R124). -/
theorem step_of_startSucceeds {s : State} (h : StartSucceeds s) :
    step s = .next (setCmdResult .ok (startCore (dropAction s))) := by
  obtain ⟨hcmd, hen, hkey, hid⟩ := h
  have hc : checkCommand .start (dropAction s) = .ok :=
    (checkCommand_ok_iff _ _).2 ⟨by simp [hen], fun _ => hkey, fun _ => hid, rfl⟩
  calc step s = memWrite cmdAddress 0x00000002#32 (dropAction s) := step_of_takenAction_some hcmd
    _ = exec .start (dropAction s) := (memWrite_cmd _ _).trans (writeCommand_ok (by decide) _)
    _ = .next (setCmdResult .ok (startCore (dropAction s))) := exec_of_ok hc

/-- Every step emits one Rearm where the CORE ends an attempt or START succeeds, and none elsewhere. -/
theorem step_rearmEvents {s t : State} (h : step s = .next t) :
    t.rearmEvents =
      if takesCoreTurn s ∧ EndsAttempt s t ∨ StartSucceeds s then s.rearmEvents ++ [.rearm] else s.rearmEvents := by
  by_cases hstart : StartSucceeds s
  · rw [step_of_startSucceeds hstart] at h
    cases h
    rw [if_pos (.inr hstart)]
    rfl
  simp only [hstart, or_false]
  cases step_kinds h with
  | quiet _ _ e =>
    have hno : ¬ EndsAttempt s t := by rw [e]; cases hp : s.phase <;> simp [hp]
    rw [if_neg fun hturn => hno hturn.2, e]
  | core b hturn hb e =>
    have hrearm := coreStep_rearmEvents b
    rw [← e, hb] at hrearm
    simpa only [hturn, true_and] using hrearm
  | accepted _ v r ha _ _ _ e =>
    rw [if_neg (by simp [ha]), e, writeLocked_frame]
    rfl
  | performed w i ha hd _ hc e =>
    have hi : i ≠ .start := by
      rintro rfl
      obtain ⟨hbusy, hkey, hid, -⟩ := (checkCommand_ok_iff _ s).1 hc
      have hen : s.en = false := by simpa [allowedWhileEnabled] using hbusy
      exact hstart ⟨takesCommand_of_decode ha hd (by simp), hen, hkey rfl, hid rfl⟩
    rw [if_neg (by simp [ha]), e]
    exact commandEffect_rearmEvents (dropAction s) hi
  | reset _ hr e =>
    rw [if_neg (by rcases hr with hr | hr <;> simp [hr]), e]
    rfl

/-- Settles O18, by the two branches of `step_rearmEvents`. -/
theorem rearmIsEmittedExactlyAtAttemptEndsAndStart : Obligations.RearmIsEmittedExactlyAtAttemptEndsAndStart :=
  fun _ _ h =>
    ⟨fun hdue => (step_rearmEvents h).trans (if_pos hdue), fun hno => (step_rearmEvents h).trans (if_neg hno)⟩

end Sys2Proof.Machine
end

section
/-! SUPPORT. The counter mode and its counter as functions of their inputs (42_decryptor.md R195, R196, R200). -/

namespace Sys2Proof.Machine

/-! ### The counter mode on a byte sequence -/

/-- The counter mode acts on each byte alone, by the keystream byte of its position (R197, R198). -/
theorem ctrXor_eq_mapIdx (d : List Byte) (iv : Block) (rk : Vector Block 11) :
    (ctrXor d iv rk).1 = d.mapIdx fun j b => b ^^^ keystreamByte iv rk j := by
  refine List.ext_getElem (by simp) fun j hout hmap => ?_
  have hj : j < d.length := by simpa using hout
  rw [List.getElem_mapIdx, ← List.getD_eq_getElem _ 0#8 hout, ctrXor_getD d iv rk hj, List.getD_eq_getElem _ _ hj]

/-- A second pass under the same IV and round keys undoes the first (R200 a). -/
theorem ctrXor_ctrXor (d : List Byte) (iv : Block) (rk : Vector Block 11) :
    (ctrXor (ctrXor d iv rk).1 iv rk).1 = d := by
  have hcancel : ∀ b k : Byte, b ^^^ k ^^^ k = b := fun b k => by
    rw [BitVec.xor_assoc, BitVec.xor_self, BitVec.xor_zero]
  rw [ctrXor_eq_mapIdx, ctrXor_eq_mapIdx]
  exact List.ext_getElem (by simp) fun j _ _ => by rw [List.getElem_mapIdx, List.getElem_mapIdx, hcancel]

/-- Replacing an input byte replaces the output byte at its position (R200 b). -/
theorem ctrXor_set (d : List Byte) (iv : Block) (rk : Vector Block 11) (j : Nat) (x : Byte) :
    (ctrXor (d.set j x) iv rk).1 = (ctrXor d iv rk).1.set j (x ^^^ keystreamByte iv rk j) := by
  rw [ctrXor_eq_mapIdx, ctrXor_eq_mapIdx, List.mapIdx_set]

/-- Settles O52: the new output byte `x ^^^ k` is the old one, `b ^^^ k`, changed by the difference `b ^^^ x`. -/
theorem counterModeIsAnInvolutionAndLocal : Obligations.CounterModeIsAnInvolutionAndLocal := by
  intro d iv rk
  refine ⟨ctrXor_ctrXor d iv rk, fun j x hj => ?_, ctrXor_length d iv rk⟩
  have hdiff : ∀ b k : Byte, b ^^^ k ^^^ (b ^^^ x) = x ^^^ k := fun b k => by
    rw [BitVec.xor_comm b k, BitVec.xor_assoc, ← BitVec.xor_assoc b b, BitVec.xor_self, BitVec.zero_xor,
      BitVec.xor_comm]
  rw [ctrXor_set, ctrXor_getD d iv rk hj, hdiff]

/-! ### The counter -/

/-- A byte appended below a number: the number times 256, plus the byte (00_scope.md R10). -/
theorem toNat_append_byte {w : Nat} (a : BitVec w) (b : Byte) : (a ++ b).toNat = 256 * a.toNat + b.toNat := by
  rw [BitVec.toNat_append, Nat.shiftLeft_eq, Nat.mul_comm, ← Nat.two_pow_add_eq_or_of_lt b.isLt]

/-- The number of a block is the big-endian value of its bytes (R195). -/
theorem blockOfBytes_toNat (x : Nat → Byte) :
    (blockOfBytes x).toNat = (List.range 16).foldl (fun acc i => 256 * acc + (x i).toNat) 0 := by
  simp only [blockOfBytes, toNat_append_byte]
  simp [List.range_succ]

/-- The increment is addition of 1 modulo 2^128 (R196). -/
theorem incCounter_toNat (c : Block) : (incCounter c).toNat = (c.toNat + 1) % 2 ^ 128 :=
  BitVec.toNat_add c 1#128

/-- Settles O53. -/
theorem counterIsBigEndianAndWraps : Obligations.CounterIsBigEndianAndWraps :=
  ⟨blockOfBytes_toNat, incCounter_toNat⟩

end Sys2Proof.Machine
end

section
/-! SUPPORT. The four round transformations, byte by byte of the state (43_aes128.md R215 to R218). -/

namespace Sys2Proof.Machine

theorem gfMul_two (a : Byte) : gfMul a 0x02#8 = xtime a := by
  simp [gfMul, List.range_succ, Nat.repeat]

theorem gfMul_three (a : Byte) : gfMul a 0x03#8 = mul3 a := by
  simp [gfMul, List.range_succ, Nat.repeat, mul3, BitVec.xor_comm]

/-- The four rows of R217 are one row, taken cyclically down the column. -/
theorem mixColumn_eq (x : Nat → Byte) {r : Nat} (hr : r < 4) :
    mixColumn (x 0) (x 1) (x 2) (x 3) r =
      xtime (x r) ^^^ mul3 (x ((r + 1) % 4)) ^^^ x ((r + 2) % 4) ^^^ x ((r + 3) % 4) := by
  interval_cases r <;> simp [mixColumn] <;> ac_rfl

theorem stateByte_mixColumns (s : Block) {r c : Nat} (hr : r < 4) (hc : c < 4) :
    stateByte (mixColumns s) r c =
      gfMul (stateByte s r c) 0x02#8 ^^^ gfMul (stateByte s ((r + 1) % 4) c) 0x03#8 ^^^
        stateByte s ((r + 2) % 4) c ^^^ stateByte s ((r + 3) % 4) c := by
  rw [mixColumns, stateByte_stateOf _ r c hr hc, mixColumn_eq (stateByte s · c) hr, gfMul_two, gfMul_three]

/-- Settles O55. -/
theorem aesRoundTransformsActOnBytes : Obligations.AesRoundTransformsActOnBytes := fun s rk r c k hr hc =>
  ⟨blockByte_blockOfBytes _ _ (by omega), stateByte_stateOf _ r c hr hc, stateByte_mixColumns s hr hc,
    blockByte_xor s rk[k] _⟩

end Sys2Proof.Machine
end

section
/-! SUPPORT. The words of the key schedule by their index, and the recurrence they satisfy (43_aes128.md R219 to
R221). -/

namespace Sys2Proof.Machine

/-! ### The temporary word -/

theorem wordOfBytes_xor (a0 a1 a2 a3 b0 b1 b2 b3 : Byte) :
    wordOfBytes a0 a1 a2 a3 ^^^ wordOfBytes b0 b1 b2 b3 =
      wordOfBytes (a0 ^^^ b0) (a1 ^^^ b1) (a2 ^^^ b2) (a3 ^^^ b3) :=
  BitVec.xor_append.trans <| congrArg (· ++ _) <| BitVec.xor_append.trans <| congrArg (· ++ _) BitVec.xor_append

theorem wordByte_rotWord (t : Word) {j : Nat} (hj : j < 4) : wordByte (rotWord t) j = wordByte t ((j + 1) % 4) :=
  wordByte_wordOfBytes (fun i => wordByte t ((i + 1) % 4)) j hj

theorem keyTemp_of_mod_eq_zero {i : Nat} (h : i % 4 = 0) (t : Word) :
    keyTemp i t = wordOfBytes (sbox (wordByte t 1) ^^^ rcon (i / 4)) (sbox (wordByte t 2)) (sbox (wordByte t 3))
      (sbox (wordByte t 0)) := by
  simp [keyTemp, h, subWord, wordByte_rotWord, wordOfBytes_xor]

theorem keyTemp_of_mod_ne_zero {i : Nat} (h : i % 4 ≠ 0) (t : Word) : keyTemp i t = t := if_neg h

/-! ### The words by their index -/

/-- The list grows at its head: a word stays at its distance from the end. -/
theorem keyWords_getD_add (k : Block) (m d j : Nat) :
    (keyWords k (m + d)).getD (j + d) 0#32 = (keyWords k m).getD j 0#32 := by
  induction d with
  | zero => rfl
  | succ d ih => rw [← ih]; rfl

/-- Entry `j` of the list of the words `w[0 .. m+4)`, newest first, is `w[m+3-j]`. -/
theorem keyWord_eq_getD (k : Block) {m j : Nat} (hm : m ≤ 40) (hj : j ≤ m + 3) :
    keyWord k (m + 3 - j) = (keyWords k m).getD j 0#32 := by
  rw [keyWord, ← keyWords_getD_add k m (40 - m) j, show m + (40 - m) = 40 by omega,
    show 43 - (m + 3 - j) = j + (40 - m) by omega]

theorem keyWord_of_lt (k : Block) {i : Nat} (h : i < 4) : keyWord k i = blockWord k i := by
  interval_cases i <;> rfl

/-- The recurrence of R220. -/
theorem keyWord_recurrence (k : Block) {i : Nat} (h4 : 4 ≤ i) (h44 : i < 44) :
    keyWord k i = keyWord k (i - 4) ^^^ keyTemp i (keyWord k (i - 1)) := by
  obtain ⟨m, rfl⟩ := Nat.exists_eq_add_of_le' h4
  have hnew : keyWord k (m + 4) = (keyWords k (m + 1)).getD 0 0#32 :=
    keyWord_eq_getD k (m := m + 1) (j := 0) (by omega) (by omega)
  have hprev : keyWord k (m + 3) = (keyWords k m).getD 0 0#32 :=
    keyWord_eq_getD k (j := 0) (by omega) (by omega)
  have holdest : keyWord k m = (keyWords k m).getD 3 0#32 :=
    keyWord_eq_getD k (j := 3) (by omega) (by omega)
  rw [Nat.add_sub_cancel, show m + 4 - 1 = m + 3 by omega, hprev, holdest]
  exact hnew

/-! ### The round keys -/

theorem keyExpansion_getElem (k : Block) (r : Fin 11) : (keyExpansion k)[r] = roundKey k r := by
  fin_cases r <;> rfl

theorem blockOfWords_blockWord (b : Block) :
    blockOfWords (blockWord b 0) (blockWord b 1) (blockWord b 2) (blockWord b 3) = b :=
  block_ext fun i hi => by
    rw [blockByte_eq_wordByte _ i hi, blockWord_blockOfWords (blockWord b) _ (by omega),
      ← blockByte_eq_wordByte b i hi]

theorem roundKey_zero (k : Block) : roundKey k 0 = k := by
  simp [roundKey, keyWord_of_lt, blockOfWords_blockWord]

/-- Settles O56, with the words of the model's own key schedule. -/
theorem keyExpansionFollowsTheRecurrence : Obligations.KeyExpansionFollowsTheRecurrence := by
  intro key
  refine ⟨keyWord key, fun i hi => ?_, fun i h4 h44 hmod => ?_, fun i h4 h44 hmod => ?_,
    keyExpansion_getElem key, roundKey_zero key⟩
  · rw [keyWord_of_lt key hi, blockWord_bytes key i hi]
  · rw [keyWord_recurrence key h4 h44, keyTemp_of_mod_ne_zero hmod]
  · rw [keyWord_recurrence key h4 h44, keyTemp_of_mod_eq_zero hmod, rcon]

end Sys2Proof.Machine
end

section
/-! SUPPORT. The field GF(2^8) of 43_aes128.md R212: its nonzero bytes are the powers of 0x03, so that the inverse and
the S-box (R213, R214) are read off the powers. -/

namespace Sys2Proof.Machine

/-! ### Multiplication by 0x03 passes through a product -/

theorem xtime_xor (a b : Byte) : xtime (a ^^^ b) = xtime a ^^^ xtime b := by
  have hreduce : ∀ x y : Bool, (if x ^^ y then 0x1B#8 else 0x00#8) =
      (if x then 0x1B#8 else 0x00#8) ^^^ (if y then 0x1B#8 else 0x00#8) := by decide
  simp only [xtime, BitVec.getLsbD_xor, hreduce, BitVec.shiftLeft_xor_distrib]
  ac_rfl

theorem mul3_xor (a b : Byte) : mul3 (a ^^^ b) = mul3 a ^^^ mul3 b := by
  simp only [mul3, xtime_xor]
  ac_rfl

theorem mul3_repeat_xtime (i : Nat) (a : Byte) : mul3 (Nat.repeat xtime i a) = Nat.repeat xtime i (mul3 a) := by
  induction i with
  | zero => rfl
  | succ i ih =>
    have hswap (b : Byte) : mul3 (xtime b) = xtime (mul3 b) := by simp only [mul3, xtime_xor]
    rw [Nat.repeat, hswap, ih, Nat.repeat]

theorem gfMul_mul3 (a b : Byte) : gfMul (mul3 a) b = mul3 (gfMul a b) := by
  refine List.foldl_hom mul3 (init := 0x00#8) fun acc i => ?_
  rw [mul3_xor, apply_ite mul3, mul3_repeat_xtime]
  rfl

theorem gfMul_one (b : Byte) : gfMul 0x01#8 b = b := by
  revert b
  decide +kernel

/-! ### The powers of 0x03 -/

/-- `0x03^i` in GF(2^8). -/
def powThree (i : Nat) : Byte := mul3^[i] 0x01#8

theorem powThree_succ (i : Nat) : powThree (i + 1) = mul3 (powThree i) := Function.iterate_succ_apply' mul3 i _

theorem gfMul_powThree (i j : Nat) : gfMul (powThree i) (powThree j) = powThree (i + j) := by
  induction i with
  | zero => rw [Nat.zero_add]; exact gfMul_one _
  | succ i ih => rw [powThree_succ, gfMul_mul3, ih, Nat.succ_add, powThree_succ]

/-- The inverse is the 254th power (R213). -/
theorem gfInv_powThree (i : Nat) : gfInv (powThree i) = powThree (254 * i) := by
  rw [gfInv, show 0x01#8 = powThree 0 from rfl]
  simp only [List.range_succ, List.range_zero, List.nil_append, List.cons_append, List.foldl_cons, List.foldl_nil,
    gfMul_powThree]
  congr 1
  omega

theorem isPeriodicPt_mul3 : Function.IsPeriodicPt mul3 255 0x01#8 := by
  have hstaged : (mul3^[15])^[17] 0x01#8 = 0x01#8 := by decide +kernel
  rwa [← Function.iterate_mul] at hstaged

/-- 0x03 has order 255: a divisor of 255 that divides none of 85, 51 and 15 is 255. -/
theorem minimalPeriod_mul3 : Function.minimalPeriod mul3 0x01#8 = 255 := by
  have hdvd : ∀ d ∈ Nat.divisors 255, ¬ d ∣ 85 → ¬ d ∣ 51 → ¬ d ∣ 15 → d = 255 := by decide
  have hnot {n : Nat} (h : mul3^[n] 0x01#8 ≠ 0x01#8) : ¬ Function.minimalPeriod mul3 0x01#8 ∣ n :=
    fun hn => h (Function.isPeriodicPt_iff_minimalPeriod_dvd.2 hn)
  exact hdvd _ (Nat.mem_divisors.2 ⟨isPeriodicPt_mul3.minimalPeriod_dvd, by decide⟩)
    (hnot (by decide +kernel)) (hnot (by decide +kernel)) (hnot (by decide +kernel))

theorem powThree_eq_of_mod_eq {i j : Nat} (h : i % 255 = j % 255) : powThree i = powThree j := by
  rw [powThree, powThree, ← isPeriodicPt_mul3.iterate_mod_apply i, h, isPeriodicPt_mul3.iterate_mod_apply]

theorem powThree_ne_zero (i : Nat) : powThree i ≠ 0x00#8 := by
  have hmul3 : ∀ b : Byte, mul3 b = 0x00#8 → b = 0x00#8 := by decide +kernel
  induction i with
  | zero => decide
  | succ i ih => exact fun h => ih (hmul3 _ (by rwa [powThree_succ] at h))

/-- 0x03 generates the nonzero bytes: its 255 powers are distinct, and there are 255 nonzero bytes. -/
theorem exists_powThree {x : Byte} (hx : x ≠ 0x00#8) : ∃ i < 255, powThree i = x := by
  have hpos {b : Byte} (hb : b ≠ 0x00#8) : b.toNat ∈ Finset.Ico 1 256 :=
    Finset.mem_Ico.2 ⟨Nat.pos_of_ne_zero fun h => hb (BitVec.eq_of_toNat_eq h), b.isLt⟩
  have hinj : Set.InjOn (fun i => (powThree i).toNat) (Finset.range 255) := fun i hi j hj h =>
    Function.iterate_injOn_Iio_minimalPeriod (f := mul3) (x := 0x01#8)
      (by simpa [minimalPeriod_mul3] using hi) (by simpa [minimalPeriod_mul3] using hj) (BitVec.eq_of_toNat_eq h)
  obtain ⟨i, hi, hix⟩ := Finset.surjOn_of_injOn_of_card_le _ (fun i _ => hpos (powThree_ne_zero i)) hinj
    (by simp) (hpos hx)
  exact ⟨i, Finset.mem_range.1 hi, BitVec.eq_of_toNat_eq hix⟩

/-! ### The inverse and the S-box -/

theorem gfMul_gfInv {x : Byte} (hx : x ≠ 0x00#8) : gfMul x (gfInv x) = 0x01#8 := by
  obtain ⟨i, -, rfl⟩ := exists_powThree hx
  rw [gfInv_powThree, gfMul_powThree, powThree_eq_of_mod_eq (j := 0) (by omega)]
  rfl

theorem gfInv_zero : gfInv 0x00#8 = 0x00#8 := by decide +kernel

/-- The affine map `A` of R213. -/
def sboxAffine (y : Byte) : Byte :=
  y ^^^ y.rotateLeft 1 ^^^ y.rotateLeft 2 ^^^ y.rotateLeft 3 ^^^ y.rotateLeft 4 ^^^ 0x63#8

theorem sboxAlgebraic_eq (x : Byte) : sboxAlgebraic x = sboxAffine (gfInv x) := rfl

/-- The printed table (R214) at a power of 0x03, compared in one pass over the list of the powers with the list of
their inverses, which is the same list backwards. -/
theorem sbox_powThree {i : Nat} (hi : i < 256) : sbox (powThree i) = sboxAffine (powThree (255 - i)) := by
  have htable : (List.iterate mul3 0x01#8 256).map sbox = ((List.iterate mul3 0x01#8 256).map sboxAffine).reverse := by
    decide +kernel
  have hentry := List.getElem_of_eq htable (i := i) (by rwa [List.length_map, List.length_iterate])
  simp only [List.getElem_reverse, List.getElem_map, List.getElem_iterate, List.length_map, List.length_iterate]
    at hentry
  exact hentry

theorem sbox_eq_sboxAlgebraic (x : Byte) : sbox x = sboxAlgebraic x := by
  by_cases hx : x = 0x00#8
  · rw [hx, sboxAlgebraic_eq, gfInv_zero]
    decide
  · obtain ⟨i, hi, rfl⟩ := exists_powThree hx
    rw [sboxAlgebraic_eq, gfInv_powThree, sbox_powThree (by omega),
      powThree_eq_of_mod_eq (i := 255 - i) (j := 254 * i) (by omega)]

/-- Settles O54. -/
theorem sboxTableIsItsDefinition : Obligations.SboxTableIsItsDefinition :=
  ⟨sbox_eq_sboxAlgebraic, fun _ => gfMul_gfInv, gfInv_zero⟩

/-! ### The conformance vector -/

/-- Settles O57: two fixed values, which the cipher and the key schedule evaluate to. -/
theorem aesMeetsTheConformanceVector : Obligations.AesMeetsTheConformanceVector := by
  unfold Obligations.AesMeetsTheConformanceVector
  constructor
  case left => decide +kernel
  case right => decide +kernel

end Sys2Proof.Machine
end

section
/-! SUPPORT. The CRC of 44_integrity_crc.md R241 to R244: the bitwise step is linear, so eight shifts of the register
split into eight shifts of its high byte, which the table holds, and a plain shift of its low byte. -/

namespace Sys2Proof.Machine

/-- The two branches of the step as one xor. -/
theorem crcShift_eq_xor (r : Half) :
    crcShift r = r <<< 1 ^^^ (if r.getLsbD 15 then Config.crcPoly else 0x0000#16) := by
  rw [crcShift]
  split
  · rfl
  · exact (BitVec.xor_zero).symm

theorem crcShift_xor (a b : Half) : crcShift (a ^^^ b) = crcShift a ^^^ crcShift b := by
  have hreduce : ∀ x y : Bool, (if x ^^ y then Config.crcPoly else 0x0000#16) =
      (if x then Config.crcPoly else 0x0000#16) ^^^ (if y then Config.crcPoly else 0x0000#16) := by decide
  simp only [crcShift_eq_xor, BitVec.getLsbD_xor, hreduce, BitVec.shiftLeft_xor_distrib]
  ac_rfl

theorem repeat_crcShift_xor (n : Nat) (a b : Half) :
    Nat.repeat crcShift n (a ^^^ b) = Nat.repeat crcShift n a ^^^ Nat.repeat crcShift n b := by
  induction n with
  | zero => rfl
  | succ n ih => simp only [Nat.repeat, ih, crcShift_xor]

theorem crcShift_of_getLsbD_eq_false {r : Half} (h : r.getLsbD 15 = false) : crcShift r = r <<< 1 := by
  rw [crcShift, h]
  rfl

/-- The polynomial does not enter while the bits shifted out are 0. -/
theorem repeat_crcShift_of_high_bits_clear {n : Nat} {r : Half} (h : ∀ i < n, r.getLsbD (15 - i) = false) :
    Nat.repeat crcShift n r = r <<< n := by
  induction n with
  | zero => simp [Nat.repeat]
  | succ n ih =>
    have htop : (r <<< n).getLsbD 15 = false := by rw [BitVec.getLsbD_shiftLeft, h n n.lt_succ_self, Bool.and_false]
    rw [Nat.repeat, ih fun i hi => h i (by omega), crcShift_of_getLsbD_eq_false htop, BitVec.shiftLeft_add]

theorem repeat_crcShift_low_byte (v : Byte) : Nat.repeat crcShift 8 (v.setWidth 16) = v.setWidth 16 <<< 8 :=
  repeat_crcShift_of_high_bits_clear fun i hi => by
    rw [BitVec.getLsbD_setWidth, BitVec.getLsbD_of_ge v _ (by omega), Bool.and_false]

/-- An input byte meets the register's high byte and leaves its low byte alone. -/
theorem register_xor_input (r : Half) (x : Byte) : r ^^^ (x.setWidth 16 <<< 8) =
    (((r >>> 8).setWidth 8 ^^^ x).setWidth 16 <<< 8) ^^^ (r.setWidth 8).setWidth 16 := by
  refine BitVec.eq_of_getLsbD_eq fun i hi => ?_
  by_cases hlow : i < 8
  · simp [hi, hlow, -BitVec.getLsbD_eq_getElem]
  · have hback : 8 + (i - 8) = i := by omega
    have hbyte : i - 8 < 8 := by omega
    have hword : i - 8 < 16 := by omega
    simp [hi, hlow, hback, hbyte, hword, -BitVec.getLsbD_eq_getElem]

theorem setWidth_low_byte_shiftLeft (r : Half) : (r.setWidth 8).setWidth 16 <<< 8 = r <<< 8 := by
  refine BitVec.eq_of_getLsbD_eq fun i hi => ?_
  have hbyte : i - 8 < 8 := by omega
  have hword : i - 8 < 16 := by omega
  simp [hi, hbyte, hword, -BitVec.getLsbD_eq_getElem]

/-- One byte of R241 in the shape of R242, with the entry computed instead of looked up. -/
theorem crcByte_eq_entry (r : Half) (x : Byte) :
    crcByte r x = r <<< 8 ^^^ crcTableEntry ((r >>> 8).setWidth 8 ^^^ x) := by
  rw [crcByte, register_xor_input, repeat_crcShift_xor, repeat_crcShift_low_byte, setWidth_low_byte_shiftLeft,
    BitVec.xor_comm, crcTableEntry]

/-- The 256 printed entries (R242) against their definition. -/
theorem crcTable_eq_entry (v : Byte) : crcTable v = crcTableEntry v := by
  revert v
  decide +kernel

theorem crcTableByte_eq_crcByte : crcTableByte = crcByte := by
  funext r x
  rw [crcTableByte, crcTable_eq_entry, crcByte_eq_entry]

theorem crc16Table_eq_crc16 (x : List Byte) : crc16Table x = crc16 x := by
  rw [crc16Table, crcTableByte_eq_crcByte, crc16]

/-- Settles O58. -/
theorem crcFormsAgreeOnEveryInput : Obligations.CrcFormsAgreeOnEveryInput :=
  ⟨crc16Table_eq_crc16, fun _ => rfl, crcTable_eq_entry⟩

/-- A zero byte leaves the initial register, which is 0, as it is. -/
theorem crcByte_crcInit_zero : crcByte Config.crcInit 0x00#8 = Config.crcInit := by decide

theorem crc16_zero_cons (x : List Byte) : crc16 (0x00#8 :: x) = crc16 x := by
  rw [crc16, List.foldl_cons, crcByte_crcInit_zero, crc16]

/-- Settles O59. -/
theorem crcIgnoresLeadingZeros : Obligations.CrcIgnoresLeadingZeros :=
  ⟨crc16_nil, (crc16_zero_cons []).trans crc16_nil, crc16_zero_cons⟩

end Sys2Proof.Machine
end

section
/-! SUPPORT. The stages of a frame pass in terms of the frame: IV, plaintext and CRCs after the CTR stage and the
integrity computation (42_decryptor.md R192 to R199; 44_integrity_crc.md R246, R247). -/

namespace Sys2Proof.Machine

open Sys2Proof.Claims

/-! ### The plaintext -/

theorem decrypted_ivr (cl : Nat) (s : State) : (decrypted cl s).ivr = deriveIv (frameByte s) := rfl

theorem decrypted_ctr (cl : Nat) (s : State) :
    (decrypted cl s).ctr = deriveIv (frameByte s) + BitVec.ofNat 128 ((cl + 15) / 16) := by
  have hlen : (frameSlice s 16 cl).length = cl := slice_length _ 16 cl
  calc (decrypted cl s).ctr = (ctrXor (frameSlice s 16 cl) (deriveIv (frameByte s)) s.rk).2 := rfl
    _ = deriveIv (frameByte s) + BitVec.ofNat 128 ((cl + 15) / 16) := by rw [ctrXor_counter, hlen]

/-- Byte `j` of the CTR stage's output. -/
theorem ctrXor_frameSlice_getD (s : State) {cl j : Nat} (hj : j < cl) :
    (ctrXor (frameSlice s 16 cl) (deriveIv (frameByte s)) s.rk).1.getD j 0#8 = payloadByte s j := by
  have hlen : (frameSlice s 16 cl).length = cl := slice_length _ 16 cl
  rw [ctrXor_getD _ _ _ (by omega), frameSlice, slice_getD _ _ _ _ hj]
  rfl

/-- Every byte of memory after the CTR stage: `PLAIN_BUF[0..cl)` holds the plaintext, the rest is as before. -/
theorem byteAt_decrypted (cl a : Nat) (s : State) :
    Memory.byteAt (decrypted cl s).mem a =
      if 0x140 ≤ a ∧ a < 0x140 + cl then payloadByte s (a - 0x140) else Memory.byteAt s.mem a := by
  have hlen : (frameSlice s 16 cl).length = cl := slice_length _ 16 cl
  have hmem : (decrypted cl s).mem =
      Memory.writeBytes s.mem 0x140 (ctrXor (frameSlice s 16 cl) (deriveIv (frameByte s)) s.rk).1 := rfl
  rw [hmem, byteAt_writeBytes, ctrXor_length, hlen]
  split
  · rw [ctrXor_frameSlice_getD s (by omega)]
  · rfl

theorem plainByte_decrypted (s : State) {cl j : Nat} (hj : j < cl) :
    plainByte (decrypted cl s) j = payloadByte s j := by
  rw [plainByte_eq, byteAt_decrypted, if_pos (by omega), Nat.add_sub_cancel_left]

theorem plainByte_checked (s : State) {cl j : Nat} (hj : j < cl) : plainByte (checked cl s) j = payloadByte s j :=
  plainByte_decrypted s hj

theorem ciByte_checked (s : State) {cl : Nat} (h : 3 ≤ cl) : ciByte (checked cl s) = payloadByte s 2 :=
  plainByte_checked s (by omega)

theorem le32_plainByte_checked (s : State) {cl o : Nat} (h : o + 4 ≤ cl) :
    le32 (plainByte (checked cl s)) o =
      payloadByte s (o + 3) ++ payloadByte s (o + 2) ++ payloadByte s (o + 1) ++ payloadByte s o := by
  rw [le32, plainByte_checked s (by omega), plainByte_checked s (by omega), plainByte_checked s (by omega),
    plainByte_checked s (by omega)]

/-! ### The CRCs -/

theorem checked_readCrc (s : State) {cl : Nat} (h : 2 ≤ cl) : (checked cl s).readCrc = payloadStoredCrc s := by
  calc (checked cl s).readCrc = plainByte (decrypted cl s) 1 ++ plainByte (decrypted cl s) 0 := rfl
    _ = payloadStoredCrc s := by
      rw [plainByte_decrypted s (by omega), plainByte_decrypted s (by omega), payloadStoredCrc]

theorem checked_calcCrc (cl : Nat) (s : State) : (checked cl s).calcCrc = payloadCrc s cl := by
  have hslice : slice (plainByte (decrypted cl s)) 2 (cl - 2) = slice (payloadByte s) 2 (cl - 2) :=
    slice_congr _ _ _ _ _ fun j hj => plainByte_decrypted s (by omega)
  exact congrArg crc16 hslice

/-! ### How far a pass gets, by address and length -/

theorem addrMatch_iff_addressed (s : State) : addrMatch s = true ↔ addressed s :=
  (addressIsMatchedInReverse s).2.1

theorem framePass_of_not_addressed {s : State} (l : Nat) (h : ¬ addressed s) :
    framePass l s = raiseFrame .addressMiss s := by
  rw [framePass, if_neg (mt (addrMatch_iff_addressed s).1 h)]

theorem framePass_of_addressed {s : State} (l : Nat) (h : addressed s) :
    framePass l s = passDecrypt (l - 18) s := by
  rw [framePass, if_pos ((addrMatch_iff_addressed s).2 h), cipherLength_eq]

/-- A frame without ciphertext ends before the IV is built (R192). -/
theorem framePass_eighteen {s : State} (h : addressed s) : framePass 18 s = raiseFrame .cipherLength s := by
  rw [framePass_of_addressed 18 h]
  rfl

theorem passDecrypt_of_pos {cl : Nat} (s : State) (hlo : 1 ≤ cl) (hhi : cl ≤ 48) :
    passDecrypt cl s = passIntegrity cl (decrypted cl s) := by
  rw [passDecrypt, (cipherLengthBad_eq_false_iff cl).2 ⟨hlo, hhi⟩, if_neg Bool.false_ne_true, decrypted]

/-- One byte of ciphertext is decrypted, but holds no CRC (44_integrity_crc.md R245). -/
theorem framePass_nineteen {s : State} (h : addressed s) :
    framePass 19 s = raiseFrame .payloadShort (decrypted 1 s) := by
  rw [framePass_of_addressed 19 h, passDecrypt_of_pos s (by decide) (by decide)]
  rfl

/-- From length 20 on the CRCs are computed and compared (R247, R248). -/
theorem framePass_of_twenty_le {s : State} {l : Nat} (h : addressed s) (hlo : 20 ≤ l) (hhi : l ≤ 63) :
    framePass l s = passCompare (l - 18) (checked (l - 18) s) := by
  rw [framePass_of_addressed l h, passDecrypt_of_pos s (by omega) (by omega), passIntegrity, if_neg (by omega), checked]

end Sys2Proof.Machine
end

section
/-! SUPPORT. The result of a pass and the reading it commits (45_parser.md R260 to R266, R270). -/

namespace Sys2Proof.Machine

open Sys2Proof.Claims

/-! ### The result -/

theorem layoutOfCi_compact : layoutOfCi 0x79#8 = some .compact := rfl

theorem layoutOfCi_long : layoutOfCi 0x78#8 = some .long := rfl

theorem layoutOfCi_of_ne {ci : Byte} (hc : ci ≠ 0x79#8) (hl : ci ≠ 0x78#8) : layoutOfCi ci = none := by
  rw [layoutOfCi, if_neg (show ¬ ci = Config.ciCompact from hc), if_neg (show ¬ ci = Config.ciLong from hl)]

theorem passLayout_frameResult (cl : Nat) (o : FieldOffsets) (s : State) :
    (passLayout cl o s).frameResult = if cl < o.minLength then .payloadShort else .readingOk := by
  rw [passLayout, apply_ite State.frameResult]
  rfl

/-- The parser's result once there is a CI byte (R261, R265, R266). -/
theorem passParse_frameResult {cl : Nat} (s : State) (h : 3 ≤ cl) :
    (passParse cl s).frameResult =
      if ciByte s = 0x79#8 then (if cl < 19 then .payloadShort else .readingOk)
      else if ciByte s = 0x78#8 then (if cl < 30 then .payloadShort else .readingOk)
      else .unknownCi := by
  rw [passParse, if_neg (by omega)]
  by_cases hc : ciByte s = 0x79#8
  · rw [if_pos hc, hc, layoutOfCi_compact]
    exact passLayout_frameResult cl _ s
  · rw [if_neg hc]
    by_cases hl : ciByte s = 0x78#8
    · rw [if_pos hl, hl, layoutOfCi_long]
      exact passLayout_frameResult cl _ s
    · rw [if_neg hl, layoutOfCi_of_ne hc hl]
      rfl

theorem passParse_two_frameResult (s : State) : (passParse 2 s).frameResult = .payloadShort := rfl

/-- Settles O28: address and length tell how far the pass gets; past the CRC the parser's result is read off the CI
byte. -/
theorem passResultFollowsTheStageOrder : Obligations.PassResultFollowsTheStageOrder := by
  intro s l _ hhi
  refine ⟨fun ha => ?_, fun ha hl => ?_, fun ha hl => ?_, fun ha hl hne => ?_, fun ha hl heq => ?_⟩
  · rw [framePass_of_not_addressed l ha, raiseFrame_frameResult]
  · rw [hl, framePass_eighteen ha, raiseFrame_frameResult]
  · rw [hl, framePass_nineteen ha, raiseFrame_frameResult]
  · rw [framePass_of_twenty_le ha hl hhi, passCompare, checked_readCrc s (by omega), checked_calcCrc, if_neg hne,
      raiseFrame_frameResult]
  · rw [framePass_of_twenty_le ha hl hhi, passCompare, checked_readCrc s (by omega), checked_calcCrc, if_pos heq]
    by_cases h20 : l = 20
    · rw [if_pos h20, h20]
      exact passParse_two_frameResult _
    · have hcompact : l - 18 < 19 ↔ l < 37 := by omega
      have hlong : l - 18 < 30 ↔ l < 48 := by omega
      rw [if_neg h20, passParse_frameResult _ (by omega), ciByte_checked s (by omega)]
      simp only [hcompact, hlong]

/-! ### The reading -/

/-- A pass that ends READING_OK commits the layout of its CI byte, whose fields all lie in the plaintext. -/
theorem framePass_of_readingOk {l : Nat} {s : State} (h : (framePass l s).frameResult = .readingOk) :
    ∃ lay, layoutOfCi (payloadByte s 2) = some lay ∧ (layoutOffsets lay).minLength ≤ l - 18 ∧
      framePass l s = commitReading (layoutOffsets lay) (checked (l - 18) s) := by
  cases framePass_cases l s with
  | commit lay _ _ _ _ h3 hi hl e =>
    rw [cipherLength_eq] at h3 hi hl e
    rw [ciByte_checked s (by omega)] at hi
    exact ⟨lay, hi, by omega, e⟩
  | addressMiss _ e | cipherLength _ _ e | noCrc _ _ _ e | crcMismatch _ _ _ _ e | noCi _ _ _ _ _ e
  | unknownCi _ _ _ _ _ _ e | tooShort _ _ _ _ _ _ _ _ e =>
    rw [e, raiseFrame_frameResult] at h
    cases h

theorem commitReading_fields (o : FieldOffsets) (s : State) :
    (commitReading o s).resValid = true ∧ (commitReading o s).readingCi = ciByte s ∧
      (commitReading o s).totalRaw = le32 (plainByte s) o.total ∧
      (commitReading o s).monthRaw = le32 (plainByte s) o.month ∧
      (commitReading o s).flowTemp = plainByte s o.flow ∧ (commitReading o s).ambientTemp = plainByte s o.ambient :=
  ⟨rfl, rfl, rfl, rfl, rfl, rfl⟩

/-- Every field of a layout ends within its least plaintext, which is longer than the CI byte's offset (R263, R265). -/
theorem layoutOffsets_within (lay : Layout) :
    3 ≤ (layoutOffsets lay).minLength ∧ (layoutOffsets lay).total + 4 ≤ (layoutOffsets lay).minLength ∧
      (layoutOffsets lay).month + 4 ≤ (layoutOffsets lay).minLength ∧
      (layoutOffsets lay).flow < (layoutOffsets lay).minLength ∧
      (layoutOffsets lay).ambient < (layoutOffsets lay).minLength := by
  cases lay <;> decide

/-- Settles O30: the committed fields are those of the chosen layout, all inside the plaintext. -/
theorem committedReadingHasTheLayoutsFields : Obligations.CommittedReadingHasTheLayoutsFields := by
  rintro s _ l _ _ rfl hok
  obtain ⟨lay, hlay, hmin, e⟩ := framePass_of_readingOk hok
  obtain ⟨hvalid, hci, htotal, hmonth, hflow, hambient⟩ :=
    commitReading_fields (layoutOffsets lay) (checked (l - 18) s)
  obtain ⟨hci', htotal', hmonth', hflow', hambient'⟩ := layoutOffsets_within lay
  rw [ciByte_checked s (by omega)] at hci
  rw [le32_plainByte_checked s (by omega)] at htotal hmonth
  rw [plainByte_checked s (by omega)] at hflow hambient
  rw [e]
  refine ⟨hvalid, hci, fun hcompact => ?_, fun hlong => ?_⟩
  · rw [hcompact, layoutOfCi_compact] at hlay
    cases hlay
    exact ⟨htotal, hmonth, hflow, hambient⟩
  · rw [hlong, layoutOfCi_long] at hlay
    cases hlay
    exact ⟨htotal, hmonth, hflow, hambient⟩

end Sys2Proof.Machine
end

section
/-! SUPPORT. What a pass writes (45_parser.md R271; 60_exceptions.md R283). -/

namespace Sys2Proof.Machine

open Sys2Proof.Claims

/-! ### What each part of a pass writes -/

/-- The comparison and the parser write neither memory nor IV, counter and CRCs. -/
theorem passCompare_writes (cl : Nat) (s : State) :
    passCompare cl s = { s with
      crcErrs := (passCompare cl s).crcErrs, frameResult := (passCompare cl s).frameResult
      events := (passCompare cl s).events, totalRaw := (passCompare cl s).totalRaw
      monthRaw := (passCompare cl s).monthRaw, flowTemp := (passCompare cl s).flowTemp
      ambientTemp := (passCompare cl s).ambientTemp, readingCi := (passCompare cl s).readingCi
      resValid := (passCompare cl s).resValid } := by
  unfold passCompare passParse passLayout
  repeat' split
  all_goals rfl

/-- A pass writes no other field than those named here: each of the others is kept by its own lemma (R271). -/
theorem framePass_writes (l : Nat) (s : State) :
    framePass l s = { s with
      ivr := (framePass l s).ivr, mem := (framePass l s).mem, ctr := (framePass l s).ctr
      readCrc := (framePass l s).readCrc, calcCrc := (framePass l s).calcCrc, crcErrs := (framePass l s).crcErrs
      frameResult := (framePass l s).frameResult, events := (framePass l s).events
      totalRaw := (framePass l s).totalRaw, monthRaw := (framePass l s).monthRaw
      flowTemp := (framePass l s).flowTemp, ambientTemp := (framePass l s).ambientTemp
      readingCi := (framePass l s).readingCi, resValid := (framePass l s).resValid } := by
  simp only [← framePass_en l s, ← framePass_keyValid l s, ← framePass_idValid l s, ← framePass_phase l s,
    ← framePass_irqEn l s, ← framePass_cmdResult l s, ← framePass_meterId l s, ← framePass_frameLen l s,
    ← framePass_ks l s, ← framePass_k l s, ← framePass_rk l s, ← framePass_framesRx l s, ← framePass_preByte0 l s,
    ← framePass_bodyCnt l s, ← framePass_rearmEvents l s, ← framePass_syncN l s, ← framePass_rxq l s,
    ← framePass_busReads l s, ← framePass_draws l s, ← framePass_agenda l s]

/-- A pass that ends before the IV is built writes its result and its event (R192, R271). -/
theorem framePass_early {l : Nat} {s : State}
    (h : (framePass l s).frameResult = .addressMiss ∨ (framePass l s).frameResult = .cipherLength) :
    framePass l s = { s with frameResult := (framePass l s).frameResult, events := (framePass l s).events } := by
  cases framePass_cases l s with
  | addressMiss _ e | cipherLength _ _ e =>
    rw [e]
    rfl
  | noCrc _ _ _ e | crcMismatch _ _ _ _ e | noCi _ _ _ _ _ e | unknownCi _ _ _ _ _ _ e
  | tooShort _ _ _ _ _ _ _ _ e | commit _ _ _ _ _ _ _ _ e =>
    rw [e] at h
    simp [commitReading] at h

/-! ### The parts by name -/

theorem framePass_crcErrs (l : Nat) (s : State) :
    (framePass l s).crcErrs =
      if (framePass l s).frameResult = .crcMismatch then s.crcErrs + 1#32 else s.crcErrs := by
  cases framePass_cases l s with
  | addressMiss _ e | cipherLength _ _ e | noCrc _ _ _ e | crcMismatch _ _ _ _ e | noCi _ _ _ _ _ e
  | unknownCi _ _ _ _ _ _ e | tooShort _ _ _ _ _ _ _ _ e | commit _ _ _ _ _ _ _ _ e =>
    simp [e, commitReading]

/-- Each result sets its event (R283), a reading on an uncleared one EV_OVR too (R266). -/
theorem framePass_events (l : Nat) (s : State) :
    (framePass l s).events =
      frameEvents (framePass l s).frameResult
        (if (framePass l s).frameResult = .readingOk then (noteOverrun s).events else s.events) := by
  cases framePass_cases l s with
  | addressMiss _ e | cipherLength _ _ e | noCrc _ _ _ e | crcMismatch _ _ _ _ e | noCi _ _ _ _ _ e
  | unknownCi _ _ _ _ _ _ e | tooShort _ _ _ _ _ _ _ _ e | commit _ _ _ _ _ _ _ _ e =>
    simp [e, commitReading]

/-- What a pass that reaches the CTR stage leaves of it and of the integrity computation. -/
theorem framePass_decrypts {l : Nat} {s : State} (hlo : 18 ≤ l) (hhi : l ≤ 63)
    (ha : (framePass l s).frameResult ≠ .addressMiss) (hc : (framePass l s).frameResult ≠ .cipherLength) :
    (framePass l s).ivr = (decrypted (l - 18) s).ivr ∧ (framePass l s).mem = (decrypted (l - 18) s).mem ∧
      (framePass l s).ctr = (decrypted (l - 18) s).ctr ∧
      (framePass l s).readCrc = (if l = 19 then s.readCrc else payloadStoredCrc s) ∧
      (framePass l s).calcCrc = (if l = 19 then s.calcCrc else payloadCrc s (l - 18)) := by
  have haddr : addressed s := by
    by_contra h
    exact ha (by rw [framePass_of_not_addressed l h, raiseFrame_frameResult])
  have h18 : l ≠ 18 := by
    rintro rfl
    exact hc (by rw [framePass_eighteen haddr, raiseFrame_frameResult])
  by_cases h19 : l = 19
  · subst h19
    rw [framePass_nineteen haddr]
    exact ⟨rfl, rfl, rfl, rfl, rfl⟩
  · rw [framePass_of_twenty_le haddr (by omega) hhi, if_neg h19, if_neg h19,
      ← checked_readCrc s (show 2 ≤ l - 18 by omega), ← checked_calcCrc, passCompare_writes]
    exact ⟨rfl, rfl, rfl, rfl, rfl⟩

/-- Settles O29, clause by clause. -/
theorem passWritesWhatItReached : Obligations.PassWritesWhatItReached := by
  rintro s _ l hlo hhi rfl
  refine ⟨framePass_early, fun ha hc => ?_, framePass_crcErrs l s, fun h => ?_, fun h => ?_, fun h => ?_, fun h => ?_,
    framePass_writes l s⟩
  · obtain ⟨hivr, hmem, hctr, hread, hcalc⟩ := framePass_decrypts hlo hhi ha hc
    exact ⟨hivr, fun a => by rw [hmem, byteAt_decrypted], hread, hcalc, by rw [hctr, decrypted_ctr]⟩
  · rw [framePass_events, h]
    rfl
  · rw [framePass_events]
    simp only [List.mem_cons, List.not_mem_nil, or_false] at h
    rcases h with h | h | h | h <;> rw [h] <;> rfl
  · rw [framePass_events, h]
    rfl
  · obtain ⟨htotal, hmonth, hflow, hambient, hci, hvalid, -, -⟩ := framePass_no_reading l s h
    exact ⟨by simp only [readingOf, htotal, hmonth, hflow, hambient, hci], hvalid⟩

end Sys2Proof.Machine
end

section
/-! SUPPORT. A step always has an outcome, and what the RADIO's acts are (60_exceptions.md R280, R314). -/

namespace Sys2Proof.Machine

/-! ### Every step answers a next state -/

/-- A word at CMD is executed or answered ILLEGAL (R120), and both answer a next state. -/
theorem writeCommand_next (w : Word) (s : State) : ∃ t, writeCommand w s = .next t := by
  rcases writeCommand_cases (rfl : writeCommand w s = writeCommand w s) with ⟨i, -, e⟩ | ⟨-, -, e⟩
  · rw [← e]
    exact exec_next i s
  · exact ⟨_, e⟩

/-- Of the writes only a command could answer anything but a next state (R63). -/
theorem memWrite_next (a : BusAddr) (v : Word) (s : State) : ∃ t, memWrite a v s = .next t := by
  cases memWrite_cases a v s with
  | command _ e =>
    rw [e]
    exact writeCommand_next v s
  | ignored _ e | readOnly _ _ _ e | lockedOut _ _ _ _ e | acknowledge _ e | enable _ e | accepted _ _ _ _ e =>
    exact ⟨_, e⟩

theorem perform_next (act : Action) (s : State) : ∃ t, perform act s = .next t := by
  cases act with
  | hostWrite a v => exact memWrite_next a v s
  | core | hostRead | radioByte | radioSync | radioFlush | resetInput => exact ⟨_, rfl⟩

theorem step_next (s : State) : ∃ t, step s = .next t := by
  rcases step_cases s with ⟨-, e⟩ | ⟨act, -, -, -, e⟩
  · exact ⟨_, e⟩
  · rw [e]
    exact perform_next act (dropAction s)

/-- Settles O8: no operation of the model answers a fault or a refusal. -/
theorem everyStepAnswersANextState : Obligations.EveryStepAnswersANextState := ⟨step_next, exec_next⟩

/-! ### The RADIO -/

/-- Settles O60: an act of the RADIO is never held, so the step is that act. -/
theorem radioTouchesOnlyItsInputs : Obligations.RadioTouchesOnlyItsInputs := by
  intro s rest
  refine ⟨?byte, ?level, ?flush⟩
  case byte => exact fun b ha => step_cons ha (by simp [Action.isHost])
  case level => exact fun l ha => step_cons ha (by simp [Action.isHost])
  case flush => exact fun ha => step_cons ha (by simp [Action.isHost])

end Sys2Proof.Machine
end

section
/-! SUPPORT. The interrupt output from the words the host reads (10_state.md R28, R43; 60_exceptions.md R285). -/

namespace Sys2Proof.Machine

/-- Bits 16 to 21 of IRQ_EN are the enables (R28). -/
theorem irqEnWord_enables (s : State) :
    (irqEnWord s).getLsbD 16 = s.irqEn.reading ∧ (irqEnWord s).getLsbD 17 = s.irqEn.warn ∧
      (irqEnWord s).getLsbD 18 = s.irqEn.drop ∧ (irqEnWord s).getLsbD 19 = s.irqEn.ovr ∧
      (irqEnWord s).getLsbD 20 = s.irqEn.cmdErr ∧ (irqEnWord s).getLsbD 21 = s.irqEn.accErr := by
  simp only [irqEnWord, EventBits.toBits, BitVec.getLsbD_append]
  simp

/-- The six places of the event bits, one by one (R23). -/
theorem exists_eventBit_iff {p : Nat → Prop} :
    (∃ b, 16 ≤ b ∧ b ≤ 21 ∧ p b) ↔ p 16 ∨ p 17 ∨ p 18 ∨ p 19 ∨ p 20 ∨ p 21 := by
  constructor
  · rintro ⟨b, hlo, hhi, hp⟩
    interval_cases b <;> simp only [hp, true_or, or_true]
  · rintro (hp | hp | hp | hp | hp | hp) <;> exact ⟨_, by decide, by decide, hp⟩

/-- `irq` is high exactly when an event and its enable stand together in STATUS and IRQ_EN (R285). -/
theorem irq_iff_words (s : State) :
    irq s = true ↔ ∃ b, 16 ≤ b ∧ b ≤ 21 ∧ (statusWord s).getLsbD b = true ∧ (irqEnWord s).getLsbD b = true := by
  rw [exists_eventBit_iff]
  simp only [statusWord_events, irqEnWord_enables, irq, Bool.or_eq_true, Bool.and_eq_true, or_assoc]

/-- Settles O51: with IRQ_EN = 0 no enable stands beside an event. -/
theorem irqIsTheMaskedOrOfTheEvents : Obligations.IrqIsTheMaskedOrOfTheEvents := by
  intro s
  refine ⟨irq_iff_words s, fun hzero => ?_, congrArg Prod.fst (memRead_regAddress .irqEn s)⟩
  rw [Bool.eq_false_iff, Ne, irq_iff_words]
  rintro ⟨b, -, -, -, hb⟩
  simp [hzero] at hb

end Sys2Proof.Machine
end

section
/-! SUPPORT. What a step does to the event bits (10_state.md R23; 60_exceptions.md R283, R286). -/

namespace Sys2Proof.Machine

open Sys2Proof.Claims

/-! ### Events that are kept -/

/-- Every event of `e` stands in `f` too. -/
structure EventsKept (e f : EventBits) : Prop where
  reading : e.reading = true → f.reading = true
  warn : e.warn = true → f.warn = true
  drop : e.drop = true → f.drop = true
  ovr : e.ovr = true → f.ovr = true
  cmdErr : e.cmdErr = true → f.cmdErr = true
  accErr : e.accErr = true → f.accErr = true

theorem EventsKept.refl (e : EventBits) : EventsKept e e := ⟨id, id, id, id, id, id⟩

theorem EventsKept.of_eq {e f : EventBits} (h : f = e) : EventsKept e f := h ▸ .refl e

theorem EventsKept.trans {e f g : EventBits} (h : EventsKept e f) (h' : EventsKept f g) : EventsKept e g :=
  ⟨h'.reading ∘ h.reading, h'.warn ∘ h.warn, h'.drop ∘ h.drop, h'.ovr ∘ h.ovr, h'.cmdErr ∘ h.cmdErr,
    h'.accErr ∘ h.accErr⟩

/-- Events that are kept show in STATUS (R23). -/
theorem EventsKept.statusWord_bit {s t : State} (h : EventsKept s.events t.events) {b : Nat} (hlo : 16 ≤ b)
    (hhi : b ≤ 21) (hb : (statusWord s).getLsbD b = true) : (statusWord t).getLsbD b = true := by
  interval_cases b <;> simp only [statusWord_events] at hb ⊢
  · exact h.reading hb
  · exact h.warn hb
  · exact h.drop hb
  · exact h.ovr hb
  · exact h.cmdErr hb
  · exact h.accErr hb

/-! ### The operations that keep the events -/

/-- A frame result only sets its event (R283). -/
theorem eventsKept_frameEvents (r : FrameResult) (e : EventBits) : EventsKept e (frameEvents r e) := by
  cases r <;> constructor <;> simp +contextual [frameEvents]

theorem eventsKept_raiseFrame (r : FrameResult) (s : State) : EventsKept s.events (raiseFrame r s).events :=
  eventsKept_frameEvents r s.events

theorem eventsKept_setCmdErr (s : State) : EventsKept s.events (setCmdErr s).events :=
  ⟨id, id, id, id, fun _ => rfl, id⟩

theorem eventsKept_setAccErr (s : State) : EventsKept s.events (setAccErr s).events :=
  ⟨id, id, id, id, id, fun _ => rfl⟩

theorem eventsKept_noteOverrun (s : State) : EventsKept s.events (noteOverrun s).events :=
  ⟨id, id, id, fun h => by simp [h], id, id⟩

theorem eventsKept_framePass (l : Nat) (s : State) : EventsKept s.events (framePass l s).events := by
  rw [framePass_events]
  refine .trans ?_ (eventsKept_frameEvents _ _)
  split
  · exact eventsKept_noteOverrun s
  · exact .refl s.events

theorem eventsKept_coreStep (s : State) : EventsKept s.events (coreStep s).events := by
  cases coreStep_cases s with
  | pass _ e =>
    rw [e]
    exact eventsKept_framePass s.frameLen.toNat s
  | preambleMiss _ _ _ _ _ e =>
    rw [e]
    exact eventsKept_raiseFrame .preambleMiss (emitRearm (dropRx s))
  | lengthInvalid l _ _ _ _ e =>
    rw [e]
    exact eventsKept_raiseFrame .lengthInvalid (emitRearm (setFrameLen l (dropRx s)))
  | hold _ e | sync _ _ e | preamble0 _ _ _ _ e | preambleMatch _ _ _ _ _ e | lengthOk _ _ _ _ _ e
  | bodyMore _ _ _ _ _ e | bodyLast _ _ _ _ _ e => exact .of_eq (by simp [e])

theorem eventsKept_stopCore (s : State) : EventsKept s.events (stopCore s).events := by
  rcases stopCore_cases s with ⟨_, e⟩ | ⟨_, _, e⟩ | ⟨_, _, e⟩ <;> rw [e]
  · exact .refl s.events
  · exact eventsKept_raiseFrame .aborted s
  · exact .refl s.events

theorem eventsKept_processFrame (s : State) : EventsKept s.events (processFrame s).events := by
  rcases processFrame_cases s with ⟨_, e⟩ | ⟨_, e⟩ <;> rw [e]
  · exact eventsKept_framePass s.frameLen.toNat s
  · exact eventsKept_raiseFrame .lengthInvalid s

/-- Of the commands only SOFT_RESET clears an event (R286). -/
theorem eventsKept_commandEffect {i : Instr} (s : State) (hreset : i ≠ .softReset) :
    EventsKept s.events (commandEffect i s).events := by
  cases i with
  | softReset => exact absurd rfl hreset
  | stop => exact eventsKept_stopCore s
  | process => exact eventsKept_processFrame s
  | nop | keyLoad | start | deriveIv | ctr | crc | aesBlock => exact .of_eq rfl

theorem eventsKept_hostRead (a : BusAddr) (s : State) : EventsKept s.events (hostRead a s).events := by
  rcases hostRead_cases a s with e | ⟨w, e⟩ <;> rw [e]
  · exact eventsKept_setAccErr s
  · exact .refl s.events

/-! ### The step -/

/-- What a step can do to the events: keep them, acknowledge some, or reset (R286). -/
theorem step_events {s t : State} (h : step s = .next t) :
    EventsKept s.events t.events ∨
      (∃ v, takenAction s = some (.hostWrite 0x000#12 v) ∧ t = ackEvents v (dropAction s)) ∨ takesReset s := by
  cases step_moves h with
  | acknowledge v ha e => exact .inr (.inl ⟨v, ha, e⟩)
  | reset ha _ => exact .inr (.inr (.inr ha))
  | performed w i ha hd _ e =>
    by_cases hi : i = .softReset
    · subst hi
      exact .inr (.inr (.inl (takesCommand_of_decode ha hd (by simp))))
    · rw [e]
      exact .inl (eventsKept_commandEffect (dropAction s) hi)
  | core b hb e =>
    have hevents : b.events = s.events := by rcases hb with ⟨-, rfl⟩ | ⟨-, rfl⟩ <;> rfl
    rw [e, ← hevents]
    exact .inl (eventsKept_coreStep b)
  | read a _ e =>
    rw [e]
    exact .inl (eventsKept_hostRead a (dropAction s))
  | ignored _ _ _ _ e =>
    rw [e]
    exact .inl (eventsKept_setAccErr (dropAction s))
  | illegal _ _ _ _ e | failed _ _ _ _ _ e =>
    rw [e]
    exact .inl (eventsKept_setCmdErr (dropAction s))
  | accepted _ v r _ _ _ _ e =>
    rw [e, writeLocked_frame]
    exact .inl (.refl s.events)
  | enable _ _ e | byte _ _ e | level _ _ e | flush _ e =>
    rw [e]
    exact .inl (.refl s.events)

/-- Settles O14: an acknowledgement clears only the bits that are 1 in the word written. -/
theorem eventBitsAreClearedOnlyByHostOrReset : Obligations.EventBitsAreClearedOnlyByHostOrReset := by
  intro s t b h hlo hhi hset hcleared
  rcases step_events h with hkept | ⟨v, ha, rfl⟩ | hreset
  · rw [hkept.statusWord_bit hlo hhi hset] at hcleared
    cases hcleared
  · have hs : (statusWord (dropAction s)).getLsbD b = true := hset
    rw [statusWord_ackEvents, hs] at hcleared
    exact .inl ⟨v, ha, by simpa [hlo, hhi] using hcleared⟩
  · exact .inr hreset

end Sys2Proof.Machine
end

section
/-! SUPPORT. Reset: the state it leaves and what the host reads after it (70_reset_and_hazards.md R330, R332). -/

namespace Sys2Proof.Machine

/-- Settles O9: the power-on state differs from the state after a reset in drawn values only, and of those the
invariant asks for the form of memory. -/
theorem resetStateMeetsTheInvariant : Obligations.ResetStateMeetsTheInvariant :=
  { inv_resetBlock State.reset with
    memory := wf_reset
    expanded := nofun }

/-- A register below the buffer windows shows nothing of what R330 leaves unspecified. -/
theorem readReg_of_other_unspecified {r : Reg} (hr : regAddress r < 0x100) (s : State) (rk : Vector Block 11)
    (mem : Memory) (preByte0 : Byte) (ctr : Block) (draws : Nat) :
    readReg r { s with rk := rk, mem := mem, preByte0 := preByte0, ctr := ctr, draws := draws } = readReg r s := by
  cases r with
  | frameWord | plainWord =>
    simp only [regAddress] at hr
    omega
  | _ => rfl

/-- After a reset every register below the buffer windows reads 0 (R330). -/
theorem readReg_resetBlock {r : Reg} (hr : regAddress r < 0x100) (s : State) : readReg r (resetBlock s) = 0#32 := by
  cases r with
  | frameWord | plainWord =>
    simp only [regAddress] at hr
    omega
  | status | irqEn => simp [readReg, statusWord, irqEnWord, EventBits.toBits, EventBits.clear, Phase.code]
  | result => simp [readReg, resultWord, CmdResult.code, FrameResult.code]
  | iv j => simp [readReg, blockWord]
  | _ => simp [readReg, crcValWord, tempsWord]

/-- At power-on they read 0 too: that state is the one after a reset but for the unspecified values (R330, R331). -/
theorem readReg_reset {r : Reg} (hr : regAddress r < 0x100) : readReg r State.reset = 0#32 :=
  (readReg_of_other_unspecified hr (resetBlock State.reset) State.reset.rk State.reset.mem State.reset.preByte0
    State.reset.ctr State.reset.draws).trans (readReg_resetBlock hr State.reset)

/-- SOFT_RESET leaves no frame result, and its own result is OK (R332). -/
theorem resultWord_softReset (s : State) : resultWord { resetBlock s with cmdResult := .ok } = 0x00000100#32 := by
  simp [resultWord, CmdResult.code, FrameResult.code]

/-- Settles O41: SOFT_RESET completes in every state, and its effect is that of the reset input. -/
theorem softResetIsResetWithResultOk : Obligations.SoftResetIsResetWithResultOk :=
  ⟨fun s => ⟨exec_always s rfl, resultWord_softReset s⟩,
    fun s => ⟨rfl, readReg_resetBlock (r := .result) (by decide) s⟩, fun _ => ⟨rfl, rfl⟩⟩

/-- Settles O42: the fields are `resetBlock`'s own, and a mapped read below the windows is `readReg`. -/
theorem resetLeavesTheResetValues : Obligations.ResetLeavesTheResetValues := by
  intro s
  refine ⟨rfl, rfl, rfl, fun a hm hlow => ?_⟩
  obtain ⟨r, hr⟩ := regAddress_of_mapped hm
  have hread := memRead_of_reached (reached_of_toNat hr)
  rw [hr] at hlow
  rw [hread, hread, readReg_resetBlock hlow, readReg_reset hlow]
  exact ⟨rfl, rfl⟩

end Sys2Proof.Machine
end

section
/-! SUPPORT. The read protocol of 70_reset_and_hazards.md R342: with EV_READING 0 at the end of a run in which nothing
clears it, no reading was committed on the way. -/

namespace Sys2Proof.Machine

open Sys2Proof.Claims

/-- The step clears EV_READING neither by a reset nor by a write of STATUS (R342). -/
def LeavesReadingEvent (s : State) : Prop :=
  ¬ takesReset s ∧ ∀ v, takenAction s = some (.hostWrite 0x000#12 v) → v.getLsbD 16 = false

/-- Such a step keeps EV_READING where it is set (R286). -/
theorem step_keeps_readingEvent {s t : State} (hs : LeavesReadingEvent s) (h : step s = .next t)
    (hset : s.events.reading = true) : t.events.reading = true := by
  obtain ⟨hreset, hwrite⟩ := hs
  rcases step_events h with hkept | ⟨v, ha, rfl⟩ | hr
  · exact hkept.reading hset
  · have hv : v.getLsbD 16 = false := hwrite v ha
    simpa [EventBits.w1c, hset] using hv
  · exact absurd hr hreset

/-- Such a step that ends with EV_READING at 0 began with it at 0, and committed no reading (R36, R37). -/
theorem step_keeps_readingOf {s t : State} (hs : LeavesReadingEvent s) (h : step s = .next t)
    (ht : t.events.reading = false) : s.events.reading = false ∧ readingOf t = readingOf s := by
  refine ⟨?event, ?reading⟩
  case event =>
    by_contra hset
    rw [step_keeps_readingEvent hs h (by simpa using hset)] at ht
    cases ht
  case reading =>
    rcases readingChangesOnlyByCommit s t h with hsame | hreset | ⟨-, hset, -⟩
    · exact hsame
    · exact absurd hreset hs.1
    · rw [hset] at ht
      cases ht

/-- A run of such steps that ends with EV_READING at 0 holds one reading in all its states: from the end backwards,
EV_READING is 0 in every state. -/
theorem runs_keep_readingOf {n : Nat} {s t : State} (h : runs n s t)
    (hsteps : ∀ m u, m < n → runs m s u → LeavesReadingEvent u) (ht : t.events.reading = false) :
    s.events.reading = false ∧ ∀ m u, m ≤ n → runs m s u → readingOf u = readingOf s := by
  induction n generalizing s with
  | zero =>
    cases h
    refine ⟨ht, fun m u hm hu => ?_⟩
    obtain rfl : m = 0 := by omega
    cases hu
    rfl
  | succ n ih =>
    obtain ⟨v, hv, hrun⟩ := h
    obtain ⟨hvevent, hvreading⟩ := ih hrun fun m u hm hu => hsteps (m + 1) u (by omega) ⟨v, hv, hu⟩
    obtain ⟨hsevent, hsreading⟩ := step_keeps_readingOf (hsteps 0 s (by omega) rfl) hv hvevent
    refine ⟨hsevent, fun m u hm hu => ?_⟩
    cases m with
    | zero =>
      cases hu
      rfl
    | succ m =>
      obtain ⟨v', hv', hu⟩ := hu
      obtain rfl : v = v' := by simpa [hv] using hv'
      exact (hvreading m u (by omega) hu).trans hsreading

/-- A step that reads a mapped address records the word of its register (R62). -/
theorem busReads_of_hostRead {u w : State} {a : BusAddr} {r : Reg} (ha : takenAction u = some (.hostRead a))
    (hr : reached a = some r) (h : step u = .next w) : w.busReads = u.busReads ++ [readReg r u] := by
  have hstep : step u = .next (hostRead a (dropAction u)) := step_of_takenAction_some ha
  rw [hstep] at h
  cases h
  simp only [hostRead, memRead_of_reached hr, dropAction_busReads]
  cases r <;> rfl

/-- The three result registers show the reading and nothing else (R36, R37). -/
theorem readReg_of_readingOf_eq {r : Reg} (hr : r ∈ [Reg.totalRaw, .monthRaw, .temps]) {s u : State}
    (h : readingOf u = readingOf s) : readReg r u = readReg r s := by
  simp only [readingOf, Prod.mk.injEq] at h
  obtain ⟨htotal, hmonth, hflow, hambient, hci⟩ := h
  simp only [List.mem_cons, List.not_mem_nil, or_false] at hr
  rcases hr with rfl | rfl | rfl
  · exact htotal
  · exact hmonth
  · simp only [readReg, tempsWord, hflow, hambient, hci]

/-- Settles O16: the run holds one reading, and a read of a result register records that reading's word. -/
theorem noReadingIsTorn : Obligations.NoReadingIsTorn := by
  intro n s t h hsteps ht
  obtain ⟨-, hsame⟩ := runs_keep_readingOf h hsteps ht
  refine ⟨hsame, fun m u w hm hu hw => ?_⟩
  have hread (a : BusAddr) (r : Reg) (hr : r ∈ [Reg.totalRaw, .monthRaw, .temps]) (ha : reached a = some r)
      (hact : takenAction u = some (.hostRead a)) : w.busReads = u.busReads ++ [readReg r s] := by
    rw [busReads_of_hostRead hact ha hw, readReg_of_readingOf_eq hr (hsame m u hm.le hu)]
  exact ⟨hread 0x040#12 .totalRaw (by simp) rfl, hread 0x044#12 .monthRaw (by simp) rfl,
    hread 0x048#12 .temps (by simp) rfl⟩

end Sys2Proof.Machine
end
